-- ==== Sys2Proof/Word.lean ====
section
/-! DEFINITION. The word types of PWMC: every quantity of the block is an unsigned bit field (00_scope.md R4). -/

namespace Sys2Proof

/-- A register of the bank: `REG_W = 32` bits (00_scope.md R3). -/
abbrev Word := BitVec 32

/-- A command word at a command port: 96 bits (30_encoding.md R67). -/
abbrev CmdWord := BitVec 96

/-- A response word: 64 bits (30_encoding.md R73). -/
abbrev RespWord := BitVec 64

/-- The opaque handle of an event handler (10_state.md R21). -/
abbrev Handle := BitVec 32

/-- A channel ordinal, `0..7` (10_state.md R10). -/
abbrev ChannelId := Fin 8

end Sys2Proof
end

