-- ==== Sys2Proof/Syntax.lean ====
section
/-! DEFINITION. The operations of PWMC as syntax: one constructor for each of the twenty-nine rows of
the opcode map (30_encoding.md R70), with its operands as the operand kinds of R69 type them. -/

namespace Sys2Proof

/-- One of the two pins of a channel (40_pin_mapping.md R90). -/
inductive SubPin where
  | A
  | B
deriving DecidableEq, Repr, Inhabited

/-- The divider-event source, the two-bit field `DIVMODE` (30_encoding.md R65). -/
inductive DivMode where
  | freeRunning
  | gatedHigh
  | risingEdge
  | fallingEdge
deriving DecidableEq, Repr, Inhabited

/-- The configuration snapshot: ten scalar fields, staged in a command word and never stored as such
(41_config_setters.md R100). `divInt` and `divFrac` are eight bits wide so that the malformed values
can be presented (30_encoding.md R68). -/
structure Snapshot where
  en        : Bool
  phCorrect : Bool
  invA      : Bool
  invB      : Bool
  divMode   : DivMode
  divInt    : BitVec 8
  divFrac   : BitVec 8
  ccA       : BitVec 16
  ccB       : BitVec 16
  top       : BitVec 16
deriving DecidableEq, Repr, Inhabited

/-- An operation with its operands, in the order of R70's table. -/
inductive Instr where
  | mapPin             (pin : BitVec 8)
  | pinOf              (c : ChannelId) (sp : SubPin)
  | setEnabled         (c : ChannelId) (en : Bool)
  | setPhCorrect       (c : ChannelId) (ph : Bool)
  | setInvert          (c : ChannelId) (invA invB : Bool)
  | setDivMode         (c : ChannelId) (mode : DivMode)
  | setDivider         (c : ChannelId) (divInt divFrac : BitVec 8)
  | setCompareA        (c : ChannelId) (value : BitVec 16)
  | setCompareB        (c : ChannelId) (value : BitVec 16)
  | setTop             (c : ChannelId) (value : BitVec 16)
  | configure          (c : ChannelId) (snap : Snapshot)
  | solveTopDivider    (freq : BitVec 32)
  | solveCompare       (top : BitVec 16) (duty : BitVec 32)
  | start              (pin : BitVec 8) (freq duty : BitVec 32)
  | stop               (pin : BitVec 8)
  | advancePhase       (c : ChannelId)
  | retardPhase        (c : ChannelId)
  | getCounter         (c : ChannelId)
  | setCounter         (c : ChannelId) (value : BitVec 16)
  | maskEnable         (bitmask : BitVec 8)
  | enableInterrupt    (c : ChannelId)
  | disableInterrupt   (c : ChannelId)
  | forceInterrupt     (c : ChannelId)
  | unforceInterrupt   (c : ChannelId)
  | clearInterrupt     (c : ChannelId)
  | setHandler         (handle : Handle)
  | handleInterrupt
  | getIntStatus
  | readReg            (offset : BitVec 8)
deriving DecidableEq, Repr, Inhabited

end Sys2Proof
end

