-- ==== Sys2Proof/WellFormed.lean ====
section
/-! DEFINITION. Well-formed operations. The operand ranges of 30_encoding.md R69 that are a power of
two are carried by the types of `Instr`. The one range that is not, the register offset of
`read_reg`, is checked here: a multiple of 4 (first check) in `0x00..0xB0` (second check). -/

namespace Sys2Proof

/-- A register offset is word-aligned (20_memory.md R43). -/
def offsetAligned (offset : BitVec 8) : Bool := offset.toNat % 4 == 0

/-- A register offset lies inside the bank (20_memory.md R43). -/
def offsetInBank (offset : BitVec 8) : Bool := decide (offset.toNat ≤ 0xB0)

/-- The operand checks that the types of `Instr` leave over. -/
def Instr.wellFormed : Instr → Bool
  | .readReg offset => offsetAligned offset && offsetInBank offset
  | .mapPin _ => true
  | .pinOf _ _ => true
  | .setEnabled _ _ => true
  | .setPhCorrect _ _ => true
  | .setInvert _ _ _ => true
  | .setDivMode _ _ => true
  | .setDivider _ _ _ => true
  | .setCompareA _ _ => true
  | .setCompareB _ _ => true
  | .setTop _ _ => true
  | .configure _ _ => true
  | .solveTopDivider _ => true
  | .solveCompare _ _ => true
  | .start _ _ _ => true
  | .stop _ => true
  | .advancePhase _ => true
  | .retardPhase _ => true
  | .getCounter _ => true
  | .setCounter _ _ => true
  | .maskEnable _ => true
  | .enableInterrupt _ => true
  | .disableInterrupt _ => true
  | .forceInterrupt _ => true
  | .unforceInterrupt _ => true
  | .clearInterrupt _ => true
  | .setHandler _ => true
  | .handleInterrupt => true
  | .getIntStatus => true

/-- The operation is one that a command word can present. -/
abbrev Instr.WellFormed (i : Instr) : Prop := i.wellFormed = true

end Sys2Proof
end

