-- ==== Sys2Proof/Decode.lean ====
section
/-! DEFINITION. The command decoder (30_encoding.md R67 to R71), total on every 96-bit word and
rejecting by name; after it the encoder, written from the same formats; the opcode table's match and
mask values (R70); and the textual syntax (R74). -/

namespace Sys2Proof

/-- Why a word is no command (R71). The block reports all of them as the fault `IllegalCommand`. -/
inductive DecodeError where
  /-- The opcode value is in no row of R70. -/
  | reservedOpcode
  /-- A bit that R68 assigns to no field is 1. -/
  | mustBeZero
  /-- A channel index above 7. -/
  | channelRange
  /-- A boolean above 1. -/
  | booleanRange
  /-- A sub-pin above 1. -/
  | subPinRange
  /-- A divider-event source above 3. -/
  | divModeRange
  /-- A divider integer or fraction operand above 255. -/
  | dividerRange
  /-- A 16-bit value above 65535. -/
  | valueRange
  /-- A register offset that names no register. -/
  | offsetRange
deriving DecidableEq, Repr

/-! ### Fields of a command word -/

/-- `W[hi:lo]` as a natural number (00_scope.md R4), with `width = hi - lo + 1`. -/
def field (w : CmdWord) (lo width : Nat) : Nat := w.toNat / 2 ^ lo % 2 ^ width

/-- The opcode, bits 95:88 (R67). -/
def opField (w : CmdWord) : Nat := field w 88 8

/-- The target, bits 87:80 (R67). -/
def tgtField (w : CmdWord) : Nat := field w 80 8

/-- The payload, bits 79:0 (R67). -/
def plField (w : CmdWord) : Nat := field w 0 80

/-! ### Operand kinds (R69) -/

/-- A channel index: `tgt[7:3]` must be 0. -/
def channelOperand (tgt : Nat) : Except DecodeError ChannelId :=
  if h : tgt < 8 then .ok ⟨tgt, h⟩ else .error .channelRange

/-- A boolean: 0 or 1. -/
def boolOperand (v : Nat) : Except DecodeError Bool :=
  match v with
  | 0 => .ok false
  | 1 => .ok true
  | _ => .error .booleanRange

/-- A sub-pin: 0 is A, 1 is B. -/
def subPinOperand (v : Nat) : Except DecodeError SubPin :=
  match v with
  | 0 => .ok .A
  | 1 => .ok .B
  | _ => .error .subPinRange

/-- The value of a divider-event source by its number (R65). -/
def divModeOfNat (v : Nat) : Option DivMode :=
  match v with
  | 0 => some .freeRunning
  | 1 => some .gatedHigh
  | 2 => some .risingEdge
  | 3 => some .fallingEdge
  | _ => none

/-- The number of a divider-event source (R65). -/
def DivMode.toNat : DivMode → Nat
  | .freeRunning => 0
  | .gatedHigh => 1
  | .risingEdge => 2
  | .fallingEdge => 3

/-- A divider-event source: 0 to 3. -/
def divModeOperand (v : Nat) : Except DecodeError DivMode :=
  match divModeOfNat v with
  | some m => .ok m
  | none => .error .divModeRange

/-- A 16-bit value: top, compare or counter. -/
def value16Operand (v : Nat) : Except DecodeError (BitVec 16) :=
  if v < 2 ^ 16 then .ok (BitVec.ofNat 16 v) else .error .valueRange

/-- A divider integer or fraction of `set_divider`: 0 to 255 can be presented. -/
def dividerOperand (v : Nat) : Except DecodeError (BitVec 8) :=
  if v < 2 ^ 8 then .ok (BitVec.ofNat 8 v) else .error .dividerRange

/-- A register offset: a multiple of 4 in `0x00..0xB0`. -/
def offsetOperand (v : Nat) : Except DecodeError (BitVec 8) :=
  if v ≤ 0xB0 ∧ v % 4 = 0 then .ok (BitVec.ofNat 8 v) else .error .offsetRange

/-- A bit range that must be 0. -/
def mustBeZero (v : Nat) : Except DecodeError Unit :=
  if v = 0 then .ok () else .error .mustBeZero

/-! ### The five formats (R68), each as a reader of the payload -/

/-- Format `T`: no payload. -/
def payloadT (pl : Nat) : Except DecodeError Unit := mustBeZero pl

/-- Format `TV`: `v0 = pl[31:0]`, the rest 0. -/
def payloadTV (pl : Nat) : Except DecodeError Nat := do
  mustBeZero (pl / 2 ^ 32)
  pure (pl % 2 ^ 32)

/-- Format `TVV`: `v1 = pl[63:32]`, `v0 = pl[31:0]`, the rest 0. -/
def payloadTVV (pl : Nat) : Except DecodeError (Nat × Nat) := do
  mustBeZero (pl / 2 ^ 64)
  pure (pl / 2 ^ 32 % 2 ^ 32, pl % 2 ^ 32)

/-- A one-bit field of the payload. -/
def flagField (pl lo : Nat) : Bool := pl / 2 ^ lo % 2 == 1

/-- Format `CFG`: `pl[79:70] = 0` and the ten fields of the snapshot. Every value of every field is
presentable, so only the must-be-zero bits can be wrong. -/
def payloadCFG (pl : Nat) : Except DecodeError Snapshot := do
  mustBeZero (pl / 2 ^ 70)
  let mode ← divModeOperand (pl / 2 ^ 64 % 4)
  pure
    { en        := flagField pl 69
      phCorrect := flagField pl 68
      invA      := flagField pl 67
      invB      := flagField pl 66
      divMode   := mode
      divInt    := BitVec.ofNat 8 (pl / 2 ^ 56)
      divFrac   := BitVec.ofNat 8 (pl / 2 ^ 48)
      ccB       := BitVec.ofNat 16 (pl / 2 ^ 32)
      ccA       := BitVec.ofNat 16 (pl / 2 ^ 16)
      top       := BitVec.ofNat 16 pl }

/-- Format `T` with a channel as its target. -/
def readChannelT (tgt pl : Nat) (mk : ChannelId → Instr) : Except DecodeError Instr := do
  let c ← channelOperand tgt
  payloadT pl
  pure (mk c)

/-- Format `TV` with a channel and a 16-bit value. -/
def readChannel16 (tgt pl : Nat) (mk : ChannelId → BitVec 16 → Instr) : Except DecodeError Instr := do
  let c ← channelOperand tgt
  let v0 ← payloadTV pl
  let v ← value16Operand v0
  pure (mk c v)

/-- Format `TV` with a channel and a boolean. -/
def readChannelBool (tgt pl : Nat) (mk : ChannelId → Bool → Instr) : Except DecodeError Instr := do
  let c ← channelOperand tgt
  let v0 ← payloadTV pl
  let b ← boolOperand v0
  pure (mk c b)

/-- Format `T` with a target of which every value is legal: a pin ordinal or a channel mask. -/
def readTarget (tgt pl : Nat) (mk : BitVec 8 → Instr) : Except DecodeError Instr := do
  payloadT pl
  pure (mk (BitVec.ofNat 8 tgt))

/-- Format `TV` with `tgt = 0` and a 32-bit value of which every value is legal. -/
def readValue32 (tgt pl : Nat) (mk : BitVec 32 → Instr) : Except DecodeError Instr := do
  mustBeZero tgt
  let v0 ← payloadTV pl
  pure (mk (BitVec.ofNat 32 v0))

/-- Format `Z`: `tgt = 0`, `pl = 0`. -/
def readNothing (tgt pl : Nat) (i : Instr) : Except DecodeError Instr := do
  mustBeZero tgt
  mustBeZero pl
  pure i

/-! ### The opcode map (R70) -/

/-- The operation of opcode `op` with target `tgt` and payload `pl`. -/
def decodeFields (op tgt pl : Nat) : Except DecodeError Instr :=
  match op with
  | 0x01 => readTarget tgt pl .mapPin
  | 0x02 => do
      let c ← channelOperand tgt
      let v0 ← payloadTV pl
      let sp ← subPinOperand v0
      pure (.pinOf c sp)
  | 0x10 => readChannelBool tgt pl .setEnabled
  | 0x11 => readChannelBool tgt pl .setPhCorrect
  | 0x12 => do
      let c ← channelOperand tgt
      let v ← payloadTVV pl
      let invA ← boolOperand v.1
      let invB ← boolOperand v.2
      pure (.setInvert c invA invB)
  | 0x13 => do
      let c ← channelOperand tgt
      let v0 ← payloadTV pl
      let m ← divModeOperand v0
      pure (.setDivMode c m)
  | 0x14 => do
      let c ← channelOperand tgt
      let v ← payloadTVV pl
      let divInt ← dividerOperand v.1
      let divFrac ← dividerOperand v.2
      pure (.setDivider c divInt divFrac)
  | 0x15 => readChannel16 tgt pl .setCompareA
  | 0x16 => readChannel16 tgt pl .setCompareB
  | 0x17 => readChannel16 tgt pl .setTop
  | 0x18 => do
      let c ← channelOperand tgt
      let snap ← payloadCFG pl
      pure (.configure c snap)
  | 0x20 => readValue32 tgt pl .solveTopDivider
  | 0x21 => do
      mustBeZero tgt
      let v ← payloadTVV pl
      let top ← value16Operand v.1
      pure (.solveCompare top (BitVec.ofNat 32 v.2))
  | 0x30 => do
      let v ← payloadTVV pl
      pure (.start (BitVec.ofNat 8 tgt) (BitVec.ofNat 32 v.1) (BitVec.ofNat 32 v.2))
  | 0x31 => readTarget tgt pl .stop
  | 0x32 => readChannelT tgt pl .advancePhase
  | 0x33 => readChannelT tgt pl .retardPhase
  | 0x34 => readChannelT tgt pl .getCounter
  | 0x35 => readChannel16 tgt pl .setCounter
  | 0x36 => readTarget tgt pl .maskEnable
  | 0x40 => readChannelT tgt pl .enableInterrupt
  | 0x41 => readChannelT tgt pl .disableInterrupt
  | 0x42 => readChannelT tgt pl .forceInterrupt
  | 0x43 => readChannelT tgt pl .unforceInterrupt
  | 0x44 => readChannelT tgt pl .clearInterrupt
  | 0x45 => readValue32 tgt pl .setHandler
  | 0x46 => readNothing tgt pl .handleInterrupt
  | 0x47 => readNothing tgt pl .getIntStatus
  | 0x50 => do
      mustBeZero tgt
      let v0 ← payloadTV pl
      let offset ← offsetOperand v0
      pure (.readReg offset)
  | _ => .error .reservedOpcode

/-- The decoder: opcode first, then the must-be-zero bits and operand ranges of its row (R70). -/
def decode (w : CmdWord) : Except DecodeError Instr :=
  decodeFields (opField w) (tgtField w) (plField w)

/-- The decoder on a word numbered as `spec/opcode_table.json` numbers it: the whole command is the
one 96-bit word, so `w` is that word and bits above `nbits` are 0. -/
def decodeTableWord (nbits w : Nat) : Option Instr :=
  if nbits ≤ 96 ∧ w < 2 ^ nbits then
    match decode (BitVec.ofNat 96 w) with
    | .ok i => some i
    | .error _ => none
  else none

/-! ### The encoder (R67, R68) -/

/-- `{op, tgt, pl}`. -/
def commandWord (op tgt pl : Nat) : CmdWord := BitVec.ofNat 96 (op * 2 ^ 88 + tgt * 2 ^ 80 + pl)

/-- The opcode of an operation (R70). -/
def Instr.opcode : Instr → Nat
  | .mapPin _ => 0x01
  | .pinOf _ _ => 0x02
  | .setEnabled _ _ => 0x10
  | .setPhCorrect _ _ => 0x11
  | .setInvert _ _ _ => 0x12
  | .setDivMode _ _ => 0x13
  | .setDivider _ _ _ => 0x14
  | .setCompareA _ _ => 0x15
  | .setCompareB _ _ => 0x16
  | .setTop _ _ => 0x17
  | .configure _ _ => 0x18
  | .solveTopDivider _ => 0x20
  | .solveCompare _ _ => 0x21
  | .start _ _ _ => 0x30
  | .stop _ => 0x31
  | .advancePhase _ => 0x32
  | .retardPhase _ => 0x33
  | .getCounter _ => 0x34
  | .setCounter _ _ => 0x35
  | .maskEnable _ => 0x36
  | .enableInterrupt _ => 0x40
  | .disableInterrupt _ => 0x41
  | .forceInterrupt _ => 0x42
  | .unforceInterrupt _ => 0x43
  | .clearInterrupt _ => 0x44
  | .setHandler _ => 0x45
  | .handleInterrupt => 0x46
  | .getIntStatus => 0x47
  | .readReg _ => 0x50

/-- The number of a sub-pin: 0 for A, 1 for B (R69). -/
def SubPin.toNat : SubPin → Nat
  | .A => 0
  | .B => 1

/-- The payload of format `CFG`. -/
def Snapshot.payload (s : Snapshot) : Nat :=
  s.en.toNat * 2 ^ 69 + s.phCorrect.toNat * 2 ^ 68 + s.invA.toNat * 2 ^ 67 + s.invB.toNat * 2 ^ 66
    + s.divMode.toNat * 2 ^ 64 + s.divInt.toNat * 2 ^ 56 + s.divFrac.toNat * 2 ^ 48
    + s.ccB.toNat * 2 ^ 32 + s.ccA.toNat * 2 ^ 16 + s.top.toNat

/-- Two 32-bit values in a payload, `v1` above `v0` (format `TVV`). -/
def twoValues (v1 v0 : Nat) : Nat := v1 * 2 ^ 32 + v0

/-- The target of an operation, by the row of R70 and its format. -/
def Instr.target : Instr → Nat
  | .mapPin pin => pin.toNat
  | .pinOf c _ => c.val
  | .setEnabled c _ => c.val
  | .setPhCorrect c _ => c.val
  | .setInvert c _ _ => c.val
  | .setDivMode c _ => c.val
  | .setDivider c _ _ => c.val
  | .setCompareA c _ => c.val
  | .setCompareB c _ => c.val
  | .setTop c _ => c.val
  | .configure c _ => c.val
  | .solveTopDivider _ => 0
  | .solveCompare _ _ => 0
  | .start pin _ _ => pin.toNat
  | .stop pin => pin.toNat
  | .advancePhase c => c.val
  | .retardPhase c => c.val
  | .getCounter c => c.val
  | .setCounter c _ => c.val
  | .maskEnable bitmask => bitmask.toNat
  | .enableInterrupt c => c.val
  | .disableInterrupt c => c.val
  | .forceInterrupt c => c.val
  | .unforceInterrupt c => c.val
  | .clearInterrupt c => c.val
  | .setHandler _ => 0
  | .handleInterrupt => 0
  | .getIntStatus => 0
  | .readReg _ => 0

/-- The payload of an operation, by the row of R70 and its format. -/
def Instr.payload : Instr → Nat
  | .mapPin _ => 0
  | .pinOf _ sp => sp.toNat
  | .setEnabled _ en => en.toNat
  | .setPhCorrect _ ph => ph.toNat
  | .setInvert _ invA invB => twoValues invA.toNat invB.toNat
  | .setDivMode _ mode => mode.toNat
  | .setDivider _ divInt divFrac => twoValues divInt.toNat divFrac.toNat
  | .setCompareA _ value => value.toNat
  | .setCompareB _ value => value.toNat
  | .setTop _ value => value.toNat
  | .configure _ snap => snap.payload
  | .solveTopDivider freq => freq.toNat
  | .solveCompare top duty => twoValues top.toNat duty.toNat
  | .start _ freq duty => twoValues freq.toNat duty.toNat
  | .stop _ => 0
  | .advancePhase _ => 0
  | .retardPhase _ => 0
  | .getCounter _ => 0
  | .setCounter _ value => value.toNat
  | .maskEnable _ => 0
  | .enableInterrupt _ => 0
  | .disableInterrupt _ => 0
  | .forceInterrupt _ => 0
  | .unforceInterrupt _ => 0
  | .clearInterrupt _ => 0
  | .setHandler handle => handle.toNat
  | .handleInterrupt => 0
  | .getIntStatus => 0
  | .readReg offset => offset.toNat

/-- The command word of an operation. -/
def encode (i : Instr) : CmdWord := commandWord i.opcode i.target i.payload

/-! ### The opcode table's match and mask values -/

/-- A row of `spec/opcode_table.json`: `W & mask = pattern` holds exactly for the words whose opcode
and must-be-zero bits are right (R70). The range of `read_reg`'s offset above `0xB0` is not
expressible in the mask. -/
structure OpcodeRow where
  mnemonic : String
  pattern  : CmdWord
  mask     : CmdWord
deriving DecidableEq, Repr

/-- Rows of the opcode table, in its order (part A). -/
def opcodeRowsA : List OpcodeRow :=
  [⟨"map_pin", 0x010000000000000000000000, 0xFF00FFFFFFFFFFFFFFFFFFFF⟩,
   ⟨"pin_of", 0x020000000000000000000000, 0xFFF8FFFFFFFFFFFFFFFFFFFE⟩,
   ⟨"set_enabled", 0x100000000000000000000000, 0xFFF8FFFFFFFFFFFFFFFFFFFE⟩,
   ⟨"set_ph_correct", 0x110000000000000000000000, 0xFFF8FFFFFFFFFFFFFFFFFFFE⟩,
   ⟨"set_invert", 0x120000000000000000000000, 0xFFF8FFFFFFFFFFFEFFFFFFFE⟩,
   ⟨"set_div_mode", 0x130000000000000000000000, 0xFFF8FFFFFFFFFFFFFFFFFFFC⟩,
   ⟨"set_divider", 0x140000000000000000000000, 0xFFF8FFFFFFFFFF00FFFFFF00⟩,
   ⟨"set_compare_a", 0x150000000000000000000000, 0xFFF8FFFFFFFFFFFFFFFF0000⟩,
   ⟨"set_compare_b", 0x160000000000000000000000, 0xFFF8FFFFFFFFFFFFFFFF0000⟩,
   ⟨"set_top", 0x170000000000000000000000, 0xFFF8FFFFFFFFFFFFFFFF0000⟩]

/-- Rows of the opcode table, in its order (part B). -/
def opcodeRowsB : List OpcodeRow :=
  [⟨"configure", 0x180000000000000000000000, 0xFFF8FFC00000000000000000⟩,
   ⟨"solve_top_divider", 0x200000000000000000000000, 0xFFFFFFFFFFFFFFFF00000000⟩,
   ⟨"solve_compare", 0x210000000000000000000000, 0xFFFFFFFFFFFF000000000000⟩,
   ⟨"start", 0x300000000000000000000000, 0xFF00FFFF0000000000000000⟩,
   ⟨"stop", 0x310000000000000000000000, 0xFF00FFFFFFFFFFFFFFFFFFFF⟩,
   ⟨"advance_phase", 0x320000000000000000000000, 0xFFF8FFFFFFFFFFFFFFFFFFFF⟩,
   ⟨"retard_phase", 0x330000000000000000000000, 0xFFF8FFFFFFFFFFFFFFFFFFFF⟩,
   ⟨"get_counter", 0x340000000000000000000000, 0xFFF8FFFFFFFFFFFFFFFFFFFF⟩,
   ⟨"set_counter", 0x350000000000000000000000, 0xFFF8FFFFFFFFFFFFFFFF0000⟩,
   ⟨"mask_enable", 0x360000000000000000000000, 0xFF00FFFFFFFFFFFFFFFFFFFF⟩]

/-- Rows of the opcode table, in its order (part C). -/
def opcodeRowsC : List OpcodeRow :=
  [⟨"enable_interrupt", 0x400000000000000000000000, 0xFFF8FFFFFFFFFFFFFFFFFFFF⟩,
   ⟨"disable_interrupt", 0x410000000000000000000000, 0xFFF8FFFFFFFFFFFFFFFFFFFF⟩,
   ⟨"force_interrupt", 0x420000000000000000000000, 0xFFF8FFFFFFFFFFFFFFFFFFFF⟩,
   ⟨"unforce_interrupt", 0x430000000000000000000000, 0xFFF8FFFFFFFFFFFFFFFFFFFF⟩,
   ⟨"clear_interrupt", 0x440000000000000000000000, 0xFFF8FFFFFFFFFFFFFFFFFFFF⟩,
   ⟨"set_handler", 0x450000000000000000000000, 0xFFFFFFFFFFFFFFFF00000000⟩,
   ⟨"handle_interrupt", 0x460000000000000000000000, 0xFFFFFFFFFFFFFFFFFFFFFFFF⟩,
   ⟨"get_int_status", 0x470000000000000000000000, 0xFFFFFFFFFFFFFFFFFFFFFFFF⟩,
   ⟨"read_reg", 0x500000000000000000000000, 0xFFFFFFFFFFFFFFFFFFFFFF03⟩]

/-- The twenty-nine rows. -/
def opcodeRows : List OpcodeRow := opcodeRowsA ++ opcodeRowsB ++ opcodeRowsC

/-- The word matches the row. -/
def OpcodeRow.matchesWord (r : OpcodeRow) (w : CmdWord) : Bool := w &&& r.mask == r.pattern

/-! ### Textual syntax (R74): the mnemonic, then the operands in the order `tgt`, `v1`, `v0` -/

/-- The mnemonic of an operation (R70). -/
def Instr.mnemonic : Instr → String
  | .mapPin _ => "map_pin"
  | .pinOf _ _ => "pin_of"
  | .setEnabled _ _ => "set_enabled"
  | .setPhCorrect _ _ => "set_ph_correct"
  | .setInvert _ _ _ => "set_invert"
  | .setDivMode _ _ => "set_div_mode"
  | .setDivider _ _ _ => "set_divider"
  | .setCompareA _ _ => "set_compare_a"
  | .setCompareB _ _ => "set_compare_b"
  | .setTop _ _ => "set_top"
  | .configure _ _ => "configure"
  | .solveTopDivider _ => "solve_top_divider"
  | .solveCompare _ _ => "solve_compare"
  | .start _ _ _ => "start"
  | .stop _ => "stop"
  | .advancePhase _ => "advance_phase"
  | .retardPhase _ => "retard_phase"
  | .getCounter _ => "get_counter"
  | .setCounter _ _ => "set_counter"
  | .maskEnable _ => "mask_enable"
  | .enableInterrupt _ => "enable_interrupt"
  | .disableInterrupt _ => "disable_interrupt"
  | .forceInterrupt _ => "force_interrupt"
  | .unforceInterrupt _ => "unforce_interrupt"
  | .clearInterrupt _ => "clear_interrupt"
  | .setHandler _ => "set_handler"
  | .handleInterrupt => "handle_interrupt"
  | .getIntStatus => "get_int_status"
  | .readReg _ => "read_reg"

/-- A boolean operand is written `0` or `1`. -/
def boolText (b : Bool) : String := if b then "1" else "0"

/-- A number operand is written in decimal. -/
def numText {n : Nat} (v : BitVec n) : String := toString v.toNat

/-- A channel operand is written in decimal. -/
def channelText (c : ChannelId) : String := toString c.val

/-- A sub-pin operand is written `A` or `B`. -/
def SubPin.text : SubPin → String
  | .A => "A"
  | .B => "B"

/-- The operands in the order of R74's forms; `configure` lists the snapshot in the source's order. -/
def Instr.operandTexts : Instr → List String
  | .mapPin pin => [numText pin]
  | .pinOf c sp => [channelText c, sp.text]
  | .setEnabled c en => [channelText c, boolText en]
  | .setPhCorrect c ph => [channelText c, boolText ph]
  | .setInvert c invA invB => [channelText c, boolText invA, boolText invB]
  | .setDivMode c mode => [channelText c, toString mode.toNat]
  | .setDivider c divInt divFrac => [channelText c, numText divInt, numText divFrac]
  | .setCompareA c value => [channelText c, numText value]
  | .setCompareB c value => [channelText c, numText value]
  | .setTop c value => [channelText c, numText value]
  | .configure c s =>
      [channelText c, boolText s.en, boolText s.phCorrect, boolText s.invA, boolText s.invB,
       toString s.divMode.toNat, numText s.divInt, numText s.divFrac, numText s.ccA, numText s.ccB,
       numText s.top]
  | .solveTopDivider freq => [numText freq]
  | .solveCompare top duty => [numText top, numText duty]
  | .start pin freq duty => [numText pin, numText freq, numText duty]
  | .stop pin => [numText pin]
  | .advancePhase c => [channelText c]
  | .retardPhase c => [channelText c]
  | .getCounter c => [channelText c]
  | .setCounter c value => [channelText c, numText value]
  | .maskEnable bitmask => [numText bitmask]
  | .enableInterrupt c => [channelText c]
  | .disableInterrupt c => [channelText c]
  | .forceInterrupt c => [channelText c]
  | .unforceInterrupt c => [channelText c]
  | .clearInterrupt c => [channelText c]
  | .setHandler handle => [numText handle]
  | .handleInterrupt => []
  | .getIntStatus => []
  | .readReg offset => [numText offset]

/-- An operation as a line of text. -/
def Instr.text (i : Instr) : String := i.mnemonic ++ "(" ++ ", ".intercalate i.operandTexts ++ ")"

end Sys2Proof
end

