-- ==== Sys2Proof/Config.lean ====
section
/-! DEFINITION. What is fixed for the machine: the parameters of 00_scope.md R3, and the values the
spec leaves open. A value the spec leaves open is an opaque constant without a body, so that nothing
can be proved about which value it is. The two boolean parameters `DISPATCH_REREAD` and
`LATCH_WHEN_STOPPED` are fixed `false` by R3; the dispatcher (one snapshot read) and the timer array
(a stopped channel does not tick) are written for that value. The OPEN parameter `SYS_CLK_HZ` is plain
data of the state (notes/assumptions/4.md); of the OPEN parameters `CounterStep` and `HandlerBehaviour`
the state says whether they are given by data or by the opaque function here (7.md and 5.md). -/

namespace Sys2Proof

/-- The counting direction in phase-correct mode: 0 is up, 1 is down (10_state.md R24). -/
inductive Dir where
  | up
  | down
deriving DecidableEq, Repr, Inhabited

/-- What one count does: the new counter, the new direction, and whether it is a wrap
(45_timer_array.md R192). -/
structure CountResult where
  ctr     : BitVec 16
  dir     : Dir
  wrapped : Bool
deriving DecidableEq, Repr, Inhabited

/-- What a handler does when the commands of its call are spent: it returns, which is its duty
(60_exceptions.md R226, "must return"), or it never returns and issues these commands over and over
(none: it spins). -/
inductive HandlerEnd where
  | returns
  | again (words : List CmdWord)
deriving DecidableEq, Repr, Inhabited

/-- What a handler does in one call `fired(h, c)` (60_exceptions.md R226): the commands it issues, in
order, and how it ends. -/
structure HandlerCall where
  words  : List CmdWord
  ending : HandlerEnd
deriving DecidableEq, Repr, Inhabited

/-- The call of the handler that issues nothing and returns, the default (92_eei_decisions.md D19). -/
def HandlerCall.silent : HandlerCall := { words := [], ending := .returns }

/-- What a handler is given in every call with handle `handle` for channel `chan`. -/
structure HandlerRow where
  handle : Handle
  chan   : ChannelId
  call   : HandlerCall
deriving DecidableEq, Repr

/-- The state as the operations show it to a handler (60_exceptions.md R226): every register of the bank,
in the order of its offset, as `read_reg` answers it, and the clock, as `solve_top_divider` computes with
it. -/
structure View where
  bank     : List Word
  sysClkHz : Option (BitVec 32)
deriving DecidableEq, Repr

/-- The full-scale duty unit `MAX_DUTY` (R3). -/
def Config.maxDuty : Nat := 65536

/-- The number of channels `N` (R3). -/
def Config.nChannels : Nat := 8

/-- `REG_BASE`, where the bank stands in a host's address space: OPEN, no rule depends on it
(20_memory.md R41). -/
opaque Config.regBase : Nat

/-- `CounterStep`, the phase-correct step function of `(ctr, top, dir)`: OPEN (R192). -/
opaque Config.counterStep : BitVec 16 → BitVec 16 → Dir → CountResult

/-- How a count changes `frac_acc`, from the old value and the divider register: not in the spec
(10_state.md R24). -/
opaque Config.fracAccNext : Nat → BitVec 12 → Nat

/-- An output level the spec leaves open, a fresh draw for every value of the state's counter: the
pins of a disabled channel (93_implementation_defined.md U3), and both pins in a period in which a
register of a running channel was written (U15). -/
opaque Config.openOutput : Nat → ChannelId → SubPin → Bool

/-- The output level in phase-correct mode where `CounterStep` is the OPEN parameter, from counter,
compare value, top and direction (45_timer_array.md R198, "outside"; U13). -/
opaque Config.phaseOutput : BitVec 16 → BitVec 16 → BitVec 16 → Dir → Bool

/-- `HandlerBehaviour`, a function of `(h, c)` and the visible state: OPEN (60_exceptions.md R226). -/
opaque Config.handlerBehaviour : Handle → ChannelId → View → HandlerCall

/-- The model's own: how many further micro-steps a CPU turn runs after its first when nothing else
is scheduled. Every operation has at most 34 micro-steps after its first, so such a turn runs an
operation to its end; only a busy-wait outlasts it, and is resumed by the next turn
(notes/assumptions/2.md, DESIGN CHOICE). -/
def Config.fullQuantum : Nat := 63

end Sys2Proof
end

