-- ==== Sys2Proof/Machine/State.lean ====
section
/-! DEFINITION. The state of PWMC (10_state.md), as plain data, and its reset value (R28). Beside the
block's own state it holds, as data, what the other agents of 00_scope.md R7 do: the schedule of
turns, the inputs, and the commands the running handler issues. -/

namespace Sys2Proof.Machine

open Sys2Proof

/-- A channel: its five registers (R11 to R15), each as wide as the state it holds, the hidden state
of the timer array (R24), and the level of the B pin (an input, R25). -/
structure Channel where
  /-- `EN`, `PH_CORRECT`, `A_INV`, `B_INV`, `DIVMODE` (two bits), `PH_RET`, `PH_ADV` from bit 0 up. -/
  csr       : BitVec 8
  /-- `FRAC` in bits 3:0, `INT` in bits 11:4. -/
  div       : BitVec 12
  ctr       : BitVec 16
  /-- Compare `A` in bits 15:0, `B` in bits 31:16. -/
  cc        : BitVec 32
  top       : BitVec 16
  dir       : Dir
  fracAcc   : Nat
  pinBIn    : Bool
  pinBPrev  : Bool
  /-- The model's own: `TOP`, `CC`, `DIV` or `CSR` was written while the channel was enabled and no
  wrap has come since, so the outputs are open (45_timer_array.md R199, notes/assumptions/12.md). -/
  disturbed : Bool
deriving DecidableEq, Repr

/-- A register of the bank: forty per-channel and five peripheral-wide ones (20_memory.md R40). -/
inductive Reg where
  | csr (c : ChannelId)
  | div (c : ChannelId)
  | ctr (c : ChannelId)
  | cc (c : ChannelId)
  | top (c : ChannelId)
  | en
  | intr
  | inte
  | intf
  | ints
deriving DecidableEq, Repr

/-- Which precondition an operation found broken (60_exceptions.md R212). -/
inductive Precondition where
  /-- `frequency_hz = 0`. Raised by `start` and `solve_top_divider`. -/
  | frequencyZero
  /-- `frequency_hz > system_clock_hz`. Raised by `start` and `solve_top_divider`. -/
  | frequencyAboveClock
  /-- `duty_cycle > 65536`. Raised by `start` and `solve_compare`. -/
  | dutyAboveFullScale
deriving DecidableEq, Repr

/-- The fault kinds of 60_exceptions.md R212, and the one of 93_implementation_defined.md U1. Each is
recorded in `faultLog` by the micro-step that raises it; the step after that stops with it, since a
fault ends the run (92_eei_decisions.md D38). All are safe: the machine stops where the spec gives no
further behaviour. -/
inductive Fault where
  /-- Raised by the decoder for a word that is no command, and by `read_reg` for an offset that names
  no register. Safe. -/
  | illegalCommand
  /-- Raised by `start`, `solve_top_divider` and `solve_compare` before they write anything. Safe. -/
  | preconditionViolated (p : Precondition)
  /-- Raised by `start` and `solve_top_divider` where the clock query gives nothing or 0. Safe. -/
  | clockAbsent
  /-- Raised by `handle_interrupt` where a dispatch is in progress. Safe. -/
  | reentrancy
  /-- Raised by a count of a channel whose divider integer part is 0, which no operation can bring
  about (R12). Safe. -/
  | dividerZero
deriving DecidableEq, Repr

/-- Why an operation has no meaning here. -/
inductive Refusal where
  /-- Raised by `exec` for an operation that has no meaning yet; no arm raises it any more. Safe. -/
  | notModelled (mnemonic : String)
deriving DecidableEq, Repr

/-- The cause of an `INVAL` response (30_encoding.md R73, 60_exceptions.md R211). -/
inductive Cause where
  | unsupportedDivider
  | unrepresentableFullDuty
deriving DecidableEq, Repr

/-- The two outcomes that produce a response word (R73). -/
inductive Answer where
  | ok (value : BitVec 48)
  | inval (cause : Cause)
deriving DecidableEq, Repr

/-- What an operation read or computed so far, the `tmp` of 10_state.md R22. -/
structure Tmp where
  /-- The word of the last register read (`t` or `u` of the pseudocode). -/
  word      : Word
  /-- The system clock as sampled by `ClockQuery()`. -/
  sys       : BitVec 32
  threshold : BitVec 32
  top       : BitVec 16
  divInt    : BitVec 8
  divFrac   : BitVec 4
  /-- The compare value `m` of `start`. -/
  compare   : BitVec 16
deriving DecidableEq, Repr

/-- Where a dispatch is (10_state.md R23). -/
inductive DispatchPhase where
  /-- Before step 1, the read of the status. -/
  | readStatus
  /-- Before step 2a. -/
  | notify
  /-- Inside step 2a: the handler issues operations. -/
  | handler
  /-- Before step 2b. -/
  | clearRaw
  /-- Before step 2c. -/
  | unforceRead
  /-- Before step 2d. -/
  | unforceWrite
  /-- Before step 3. -/
  | respond
deriving DecidableEq, Repr

/-- `Dispatch(S, c, phase, tmp)` (R23). -/
structure Dispatch where
  snapshot : BitVec 8
  chan     : ChannelId
  phase    : DispatchPhase
  tmp      : Word
deriving DecidableEq, Repr

/-- The state of the foreground sequencer (R22), and of the handler's sequencer (20_memory.md R50):
`inOp op k tmp` with `k` the number of the next micro-step. A `handle_interrupt` run by hand in the
foreground (30_encoding.md R72) is `dispatch`. -/
inductive Seq where
  | idle
  | inOp (op : Instr) (k : Nat) (tmp : Tmp)
  | dispatch (d : Dispatch)
deriving DecidableEq, Repr

/-- The state of the interrupt-context sequencer (R23). -/
inductive SeqIrq where
  | idle
  | dispatch (d : Dispatch)
deriving DecidableEq, Repr

/-- Which sequencer the CPU steps: the foreground's, the interrupt context's, or, inside a dispatch,
the handler's. -/
inductive Ctx where
  | foreground
  | interrupt
  | handler
deriving DecidableEq, Repr

/-- A step of the timer array or of the environment (00_scope.md R7). -/
inductive Event where
  /-- `Tick(c)` (45_timer_array.md R191, R192). -/
  | tick (c : ChannelId)
  /-- `AdvAck(c)` (R196). -/
  | advAck (c : ChannelId)
  /-- `RetAck(c)` (R197). -/
  | retAck (c : ChannelId)
  /-- `PinB(c, v)`; `counts` says whether a matching edge carries a `Tick`, which the spec leaves
  open (R193, U14). -/
  | pinB (c : ChannelId) (level counts : Bool)
  /-- `TakeIrq` (60_exceptions.md R219). -/
  | takeIrq
  /-- The clock tree changes what `ClockQuery()` returns (60_exceptions.md R227). -/
  | clock (hz : Option (BitVec 32))
deriving DecidableEq, Repr

/-- Whose turn it is: the CPU's, for one micro-step and up to `more` further ones of the same
operation, or another agent's. -/
inductive Turn where
  | cpu (more : Nat)
  | event (e : Event)
deriving DecidableEq, Repr

/-- Which phase-correct step function the timer array has: the reference choice of R192, or the OPEN
parameter `Config.counterStep`. -/
inductive CounterStepChoice where
  | reference
  | parameter
deriving DecidableEq, Repr

/-- What a registered handler does in its calls (60_exceptions.md R226): what `handlerScript` lists for one
call after the other, whatever that is; what a table gives for the handle and the channel, in every call
again; or the OPEN parameter `Config.handlerBehaviour`, a function of handle, channel and visible
state. -/
inductive HandlerBehaviour where
  | scripted
  | table (rows : List HandlerRow)
  | parameter
deriving DecidableEq, Repr

/-- The state of the machine. -/
structure State where
  /-- The eight channels (10_state.md R10). -/
  chans         : Vector Channel 8
  /-- Raw interrupt (R16). -/
  intr          : BitVec 8
  /-- Interrupt enable (R17). -/
  inte          : BitVec 8
  /-- Interrupt force (R18). -/
  intf          : BitVec 8
  /-- The handler slot (R21). -/
  handler       : Option Handle
  /-- `seq_fg` (R22). -/
  seqFg         : Seq
  /-- `seq_irq` (R23). -/
  seqIrq        : SeqIrq
  /-- The running handler's sequencer (20_memory.md R50). -/
  seqHandler    : Seq
  /-- The commands the running handler has still to issue (60_exceptions.md R226). -/
  handlerWords  : List CmdWord
  /-- What the running handler does when these are spent (60_exceptions.md R226). -/
  handlerEnd    : HandlerEnd
  /-- Input: what `ClockQuery()` returns (R25). -/
  sysClkHz      : Option (BitVec 32)
  /-- Input: the commands the foreground context will present, in order (R25, 60_exceptions.md R228). -/
  port          : List CmdWord
  /-- The OPEN parameter `HandlerBehaviour` (60_exceptions.md R226). -/
  handlerBehaviour : HandlerBehaviour
  /-- Input: what a scripted handler does in each coming call (60_exceptions.md R226); no entry means that
  it issues nothing and returns. -/
  handlerScript : List HandlerCall
  /-- Input: whose turn comes next (00_scope.md R7); no entry means the CPU's. -/
  schedule      : List Turn
  /-- The model's own: how many micro-steps after its first the present CPU turn may run. -/
  quantum       : Nat
  /-- The OPEN parameter `CounterStep` (45_timer_array.md R192). -/
  counterStep   : CounterStepChoice
  /-- The model's own: the counter that the free output levels are drawn with. -/
  draws         : Nat
  /-- `fired_log` (R27). -/
  firedLog      : List (Handle × ChannelId)
  /-- `fault_log` (R27). -/
  faultLog      : List Fault
  /-- Output: the response words so far, each with the sequencer that produced it (R25). -/
  responses     : List (Ctx × RespWord)
deriving DecidableEq, Repr

/-- What one micro-step of an operation does: it leaves the operation at a next place `p`, it leaves
it there and lets the handler run (`yield`), or it ends the operation. -/
inductive Micro (P : Type) where
  | next (p : P) (s : State)
  | yield (p : P) (s : State)
  | done (s : State)

/-- `tmp` before anything was read. -/
def Tmp.zero : Tmp :=
  { word := 0, sys := 0, threshold := 0, top := 0, divInt := 0, divFrac := 0, compare := 0 }

/-- A dispatch before its step 1. R23 gives the snapshot only as read at entry, and no value of the channel
and the word before they are set; the zeros are the model's and show nowhere (notes/assumptions/29.md,
DESIGN CHOICE). -/
def Dispatch.start : Dispatch := { snapshot := 0, chan := 0, phase := .readStatus, tmp := 0 }

/-- A channel after reset (10_state.md R28). `fracAcc`, `pinBIn` and `pinBPrev`, which R28 leaves
unspecified or calls inputs, are 0 (notes/assumptions/10.md, DESIGN CHOICE). -/
def Channel.reset : Channel :=
  { csr := 0x00, div := 0x010, ctr := 0, cc := 0, top := 0xFFFF, dir := .up, fracAcc := 0
    pinBIn := false, pinBPrev := false, disturbed := false }

/-- The machine right after reset (R28, 70_reset_and_hazards.md R240): every channel stopped, nothing
pending, no handler, both sequencers idle, and no command presented. -/
def State.reset : State :=
  { chans := Vector.replicate 8 Channel.reset
    intr := 0, inte := 0, intf := 0
    handler := none
    seqFg := .idle, seqIrq := .idle, seqHandler := .idle
    handlerWords := [], handlerEnd := .returns
    sysClkHz := none
    port := [], handlerBehaviour := .scripted, handlerScript := [], schedule := []
    quantum := Config.fullQuantum
    counterStep := .reference
    draws := 0
    firedLog := [], faultLog := [], responses := [] }

end Sys2Proof.Machine
end

