-- ==== Sys2Proof/Machine/Operands.lean ====
section
/-! DEFINITION. Operand forms: the pin mapping (40_pin_mapping.md R90), the register addresses
(20_memory.md R40), the fields of the register words (30_encoding.md R60 to R66) and the words the
setters write (41_config_setters.md R101 to R108). -/

namespace Sys2Proof.Machine

open Sys2Proof

/-! ### Pins -/

/-- `channel_of(p) = (p >> 1) mod N` (R90). -/
def channelOf (pin : BitVec 8) : ChannelId := Fin.ofNat 8 (pin.toNat / 2)

/-- `subpin_of(p) = p mod 2`: even is A, odd is B (R90). -/
def subPinOf (pin : BitVec 8) : SubPin := if pin.toNat % 2 = 0 then .A else .B

/-- `2 * channel + subpin`, the lowest ordinal that maps to the pair (40_pin_mapping.md R92). -/
def pinOrdinal (c : ChannelId) (sp : SubPin) : Nat := 2 * c.val + sp.toNat

/-! ### Register addresses -/

/-- The byte offset of a register in the bank (R40). -/
def Reg.offset : Reg → Nat
  | .csr c => 0x14 * c.val
  | .div c => 0x14 * c.val + 0x04
  | .ctr c => 0x14 * c.val + 0x08
  | .cc c  => 0x14 * c.val + 0x0C
  | .top c => 0x14 * c.val + 0x10
  | .en    => 0xA0
  | .intr  => 0xA4
  | .inte  => 0xA8
  | .intf  => 0xAC
  | .ints  => 0xB0

/-- The register of channel `c` at the offset `off` from the channel's first. -/
def channelRegAt (c : ChannelId) (off : Nat) : Option Reg :=
  match off with
  | 0x00 => some (.csr c)
  | 0x04 => some (.div c)
  | 0x08 => some (.ctr c)
  | 0x0C => some (.cc c)
  | 0x10 => some (.top c)
  | _ => none

/-- The peripheral-wide register at an offset. -/
def wideRegAt (addr : Nat) : Option Reg :=
  match addr with
  | 0xA0 => some .en
  | 0xA4 => some .intr
  | 0xA8 => some .inte
  | 0xAC => some .intf
  | 0xB0 => some .ints
  | _ => none

/-- The register at a byte offset; none at a misaligned offset or beyond the bank (R41, R43). -/
def regAt (addr : Nat) : Option Reg :=
  if h : addr / 0x14 < 8 then channelRegAt ⟨addr / 0x14, h⟩ (addr % 0x14) else wideRegAt addr

/-- The address of a register in the host's address space (R41). -/
def Reg.hostAddress (r : Reg) : Nat := Config.regBase + r.offset

/-! ### Fields of a channel's registers -/

/-- `CSR.EN`. -/
def Channel.en (ch : Channel) : Bool := ch.csr.getLsbD 0

/-- `CSR.PH_CORRECT`. -/
def Channel.phCorrect (ch : Channel) : Bool := ch.csr.getLsbD 1

/-- `CSR.A_INV`. -/
def Channel.aInv (ch : Channel) : Bool := ch.csr.getLsbD 2

/-- `CSR.B_INV`. -/
def Channel.bInv (ch : Channel) : Bool := ch.csr.getLsbD 3

/-- `CSR.DIVMODE`, bits 5:4 (R65). -/
def Channel.divMode (ch : Channel) : DivMode :=
  match ch.csr.getLsbD 5, ch.csr.getLsbD 4 with
  | false, false => .freeRunning
  | false, true => .gatedHigh
  | true, false => .risingEdge
  | true, true => .fallingEdge

/-- `CSR.PH_RET`. -/
def Channel.phRet (ch : Channel) : Bool := ch.csr.getLsbD 6

/-- `CSR.PH_ADV`. -/
def Channel.phAdv (ch : Channel) : Bool := ch.csr.getLsbD 7

/-- `DIV.FRAC` (R61). -/
def Channel.divFrac (ch : Channel) : BitVec 4 := ch.div.extractLsb' 0 4

/-- `DIV.INT` (R61). -/
def Channel.divInt (ch : Channel) : BitVec 8 := ch.div.extractLsb' 4 8

/-- `CC.A` (R62). -/
def Channel.ccA (ch : Channel) : BitVec 16 := ch.cc.extractLsb' 0 16

/-- `CC.B` (R62). -/
def Channel.ccB (ch : Channel) : BitVec 16 := ch.cc.extractLsb' 16 16

/-- `DividerValue16(c) = INT * 16 + FRAC` (10_state.md R29). -/
def Channel.dividerValue16 (ch : Channel) : Nat := ch.divInt.toNat * 16 + ch.divFrac.toNat

/-! ### Words the setters write -/

/-- A boolean as a word. -/
def boolWord (b : Bool) : Word := BitVec.ofNat 32 b.toNat

/-- `(t & ~0x01) | en` (R101). -/
def csrWithEnable (t : Word) (en : Bool) : Word := (t &&& ~~~0x01#32) ||| boolWord en

/-- `(t & ~0x02) | (ph << 1)` (R102). -/
def csrWithPhCorrect (t : Word) (ph : Bool) : Word := (t &&& ~~~0x02#32) ||| (boolWord ph <<< 1)

/-- `(t & ~0x0C) | (inv_a << 2) | (inv_b << 3)` (R103). -/
def csrWithInvert (t : Word) (invA invB : Bool) : Word :=
  (t &&& ~~~0x0C#32) ||| (boolWord invA <<< 2) ||| (boolWord invB <<< 3)

/-- `(t & ~0x30) | (mode << 4)` (R104). -/
def csrWithDivMode (t : Word) (mode : DivMode) : Word :=
  (t &&& ~~~0x30#32) ||| (BitVec.ofNat 32 mode.toNat <<< 4)

/-- `t | 0x80`, a phase-advance request (43_channel_controller.md R142). -/
def csrWithAdvance (t : Word) : Word := t ||| 0x80#32

/-- `t | 0x40`, a phase-retard request (43_channel_controller.md R143). -/
def csrWithRetard (t : Word) : Word := t ||| 0x40#32

/-- `(t & 0xFFFF0000) | value` (R106). -/
def ccWithA (t : Word) (value : BitVec 16) : Word := (t &&& 0xFFFF0000#32) ||| value.setWidth 32

/-- `(t & 0x0000FFFF) | (value << 16)` (R107). -/
def ccWithB (t : Word) (value : BitVec 16) : Word :=
  (t &&& 0x0000FFFF#32) ||| (value.setWidth 32 <<< 16)

/-- The compare word with the half of one sub-pin replaced (R140 step 9). -/
def ccWithSubPin (t : Word) (sp : SubPin) (value : BitVec 16) : Word :=
  match sp with
  | .A => ccWithA t value
  | .B => ccWithB t value

/-- `(div_int << 4) | div_frac` (R105). -/
def dividerWord (divInt divFrac : BitVec 8) : Word :=
  (divInt.setWidth 32 <<< 4) ||| divFrac.setWidth 32

/-- The divider the setter silently ignores: integer part 0, or fraction above 15 (R105). -/
def dividerMalformed (divInt divFrac : BitVec 8) : Bool :=
  divInt.toNat == 0 || decide (15 < divFrac.toNat)

/-- The poll of `advance_phase`: `u[7]` (R142 step 4). -/
def advancePending (u : Word) : Bool := u.getLsbD 7

/-- The poll of `retard_phase`: `u[6]` (R143 step 4). -/
def retardPending (u : Word) : Bool := u.getLsbD 6

/-- `1 << channel`, the bit of a channel in a peripheral-wide register (R64). -/
def channelBit (c : ChannelId) : BitVec 8 := 1#8 <<< c.val

/-- `t[7:0] | mask`, as the word written (R146, R170, R172). -/
def wideWithBits (t : Word) (mask : BitVec 8) : Word := (t.setWidth 8 ||| mask).setWidth 32

/-- `t[7:0] & ~mask`, as the word written (R171, R173, R178 step 2d). -/
def wideWithoutBits (t : Word) (mask : BitVec 8) : Word := (t.setWidth 8 &&& ~~~mask).setWidth 32

/-- The default snapshot, the reset state of a channel (R100, 92_eei_decisions.md D22). -/
def defaultSnapshot : Snapshot :=
  { en := false, phCorrect := false, invA := false, invB := false, divMode := .freeRunning
    divInt := 1, divFrac := 0, ccA := 0, ccB := 0, top := 65535 }

end Sys2Proof.Machine
end

