-- ==== Sys2Proof/Machine/Flags.lean ====
section
/-! DEFINITION. Status computations. The block has no condition codes (10_state.md R26); its only
flag-like state is the interrupt status (R19), its only report the response word (30_encoding.md
R73). -/

namespace Sys2Proof.Machine

open Sys2Proof

/-- `INTS = (INTR & INTE) | INTF` (10_state.md R19). -/
def intStatus (intr inte intf : BitVec 8) : BitVec 8 := (intr &&& inte) ||| intf

/-- The interrupt-status register, which is no storage. -/
def State.ints (s : State) : BitVec 8 := intStatus s.intr s.inte s.intf

/-- `Pending(c)` (10_state.md R30). -/
def State.pending (s : State) (c : ChannelId) : Bool := s.ints.getLsbD c.val

/-- The interrupt request output: `irq = 1` exactly when `INTS != 0` (60_exceptions.md R217). -/
def State.irq (s : State) : Bool := s.ints != 0

/-- The status code of a response (R73). -/
def Answer.status : Answer → BitVec 8
  | .ok _ => 0
  | .inval _ => 1

/-- The code of an error kind (R73, 60_exceptions.md R211). -/
def Cause.code : Cause → BitVec 8
  | .unsupportedDivider => 1
  | .unrepresentableFullDuty => 2

/-- The cause field of a response; 0 where there is no error (R73). -/
def Answer.causeCode : Answer → BitVec 8
  | .ok _ => 0
  | .inval cause => cause.code

/-- The value field of a response; 0 where the status is `INVAL` (R73). -/
def Answer.value : Answer → BitVec 48
  | .ok value => value
  | .inval _ => 0

/-- The response word: status in bits 7:0, cause in bits 15:8, value in bits 63:16 (R73). -/
def Answer.word (a : Answer) : RespWord := a.value ++ a.causeCode ++ a.status

end Sys2Proof.Machine
end

