-- ==== Sys2Proof/Machine/Ops.lean ====
section
/-! DEFINITION. The operations that the meanings share: reading and writing the register bank
(20_memory.md R44, R45), the sequencers (10_state.md R22, R23), running an operation micro-step by
micro-step (00_scope.md R8), responding, raising a fault (60_exceptions.md R210), and the entry to and
the return from a dispatch (R219, R221). -/

namespace Sys2Proof.Machine

open Sys2Proof

/-! ### Channels -/

/-- Channel `c`. -/
def State.chan (s : State) (c : ChannelId) : Channel := s.chans.get c

/-- The state with channel `c` replaced. -/
def State.setChan (s : State) (c : ChannelId) (ch : Channel) : State :=
  { s with chans := s.chans.set c.val ch c.isLt }

/-- `Stopped(c)` (10_state.md R30). -/
def State.stopped (s : State) (c : ChannelId) : Bool := !(s.chan c).en

/-- The peripheral-wide enable register: bit `c` is channel `c`'s `CSR.EN` (10_state.md R20). -/
def State.enables (s : State) : BitVec 8 := BitVec.ofFnLE fun c : Fin 8 => (s.chan c).en

/-! ### Register reads -/

/-- `RegRead`: the value of a register, reserved bits 0, no side effect (R44). -/
def State.regRead (s : State) : Reg → Word
  | .csr c => (s.chan c).csr.setWidth 32
  | .div c => (s.chan c).div.setWidth 32
  | .ctr c => (s.chan c).ctr.setWidth 32
  | .cc c  => (s.chan c).cc
  | .top c => (s.chan c).top.setWidth 32
  | .en    => s.enables.setWidth 32
  | .intr  => s.intr.setWidth 32
  | .inte  => s.inte.setWidth 32
  | .intf  => s.intf.setWidth 32
  | .ints  => s.ints.setWidth 32

/-- `MemRead(addr, 4)`; none where no register stands at the offset (R43, R44). -/
def State.memRead (s : State) (addr : Nat) : Option Word := (regAt addr).map s.regRead

/-- The registers of the bank, in the order of their offsets (R40, R41). -/
def Reg.all : List Reg :=
  ((List.finRange 8).flatMap fun c => [.csr c, .div c, .ctr c, .cc c, .top c]) ++
    [.en, .intr, .inte, .intf, .ints]

/-- What the operations show of the state (60_exceptions.md R226). -/
def State.view (s : State) : View := { bank := Reg.all.map s.regRead, sysClkHz := s.sysClkHz }

/-! ### Register writes -/

/-- A write of `TOP`, `CC`, `DIV` or `CSR` opens the outputs of an enabled channel until its next wrap
(45_timer_array.md R199, U15). -/
def Channel.disturb (ch : Channel) : Channel := { ch with disturbed := ch.disturbed || ch.en }

/-- `CSR.EN` replaced, as a write of the alias `EN` does (10_state.md R20). -/
def Channel.withEnable (ch : Channel) (en : Bool) : Channel :=
  { ch with csr := (ch.csr &&& 0xFE#8) ||| (BitVec.ofBool en).setWidth 8 }

/-- A write of `CSR`: bits 5:0 are stored, and a 1 in bit 6 or 7 sets the self-clearing request while a
0 leaves it (R45, 92_eei_decisions.md D29). -/
def Channel.writeCsr (ch : Channel) (v : Word) : Channel :=
  { ch.disturb with csr := (v.setWidth 8 &&& 0x3F#8) ||| ((ch.csr ||| v.setWidth 8) &&& 0xC0#8) }

/-- A write of `DIV` (R45). -/
def Channel.writeDiv (ch : Channel) (v : Word) : Channel := { ch.disturb with div := v.setWidth 12 }

/-- A write of `CTR` (R45). -/
def Channel.writeCtr (ch : Channel) (v : Word) : Channel := { ch with ctr := v.setWidth 16 }

/-- A write of `CC` (R45). -/
def Channel.writeCc (ch : Channel) (v : Word) : Channel := { ch.disturb with cc := v }

/-- A write of `TOP` (R45). -/
def Channel.writeTop (ch : Channel) (v : Word) : Channel := { ch.disturb with top := v.setWidth 16 }

/-- A write of `EN`: all eight enable bits at once (R45). -/
def State.writeEnables (s : State) (v : Word) : State :=
  { s with chans := Vector.ofFn fun c : Fin 8 => (s.chan c).withEnable (v.getLsbD c.val) }

/-- `RegWrite`: the effect of writing `v` to a register, reserved bits ignored (R45). -/
def State.regWrite (s : State) (r : Reg) (v : Word) : State :=
  match r with
  | .csr c => s.setChan c ((s.chan c).writeCsr v)
  | .div c => s.setChan c ((s.chan c).writeDiv v)
  | .ctr c => s.setChan c ((s.chan c).writeCtr v)
  | .cc c  => s.setChan c ((s.chan c).writeCc v)
  | .top c => s.setChan c ((s.chan c).writeTop v)
  | .en    => s.writeEnables v
  | .intr  => { s with intr := s.intr &&& ~~~(v.setWidth 8) }
  | .inte  => { s with inte := v.setWidth 8 }
  | .intf  => { s with intf := v.setWidth 8 }
  | .ints  => s

/-- `MemWrite(addr, 4, v)`; none where no register stands at the offset (R43, R45). -/
def State.memWrite (s : State) (addr : Nat) (v : Word) : Option State :=
  (regAt addr).map fun r => s.regWrite r v

/-! ### Sequencers -/

/-- The dispatch in progress, in the interrupt context or by hand in the foreground
(30_encoding.md R72). -/
def State.currentDispatch (s : State) : Option Dispatch :=
  match s.seqIrq with
  | .dispatch d => some d
  | .idle =>
    match s.seqFg with
    | .dispatch d => some d
    | _ => none

/-- A dispatch is in progress (44_interrupt_ops.md R178 step 0). -/
def State.dispatching (s : State) : Bool := s.currentDispatch.isSome

/-- The dispatch in progress put at another place. -/
def State.setDispatch (s : State) (d : Dispatch) : State :=
  match s.seqIrq with
  | .dispatch _ => { s with seqIrq := .dispatch d }
  | .idle => { s with seqFg := .dispatch d }

/-- Which sequencer the CPU steps: the handler's while a handler runs, else the interrupt context's
while it is in a dispatch, else the foreground's (00_scope.md R7, 60_exceptions.md R219). -/
def State.ctx (s : State) : Ctx :=
  match s.seqIrq with
  | .dispatch d => if d.phase = .handler then .handler else .interrupt
  | .idle =>
    match s.seqFg with
    | .dispatch d => if d.phase = .handler then .handler else .foreground
    | _ => .foreground

/-- The state of the sequencer the CPU steps. -/
def State.seq (s : State) : Seq :=
  match s.ctx with
  | .foreground => s.seqFg
  | .handler => s.seqHandler
  | .interrupt =>
    match s.seqIrq with
    | .dispatch d => .dispatch d
    | .idle => .idle

/-- The sequencer the CPU steps put into another state. -/
def State.setSeq (s : State) (q : Seq) : State :=
  match s.ctx with
  | .foreground => { s with seqFg := q }
  | .handler => { s with seqHandler := q }
  | .interrupt =>
    match q with
    | .dispatch d => { s with seqIrq := .dispatch d }
    | _ => { s with seqIrq := .idle }

/-- Where operation `i` goes on in a sequencer: at its micro-step 1 if the sequencer is idle and so
accepts it, at its place if the sequencer is inside it, nowhere otherwise (10_state.md R22: a new
operation is accepted only when the sequencer is idle). -/
def Seq.place (q : Seq) (i : Instr) : Option (Nat × Tmp) :=
  match q with
  | .idle => some (1, Tmp.zero)
  | .inOp j k t => if j = i then some (k, t) else none
  | .dispatch _ => none

/-! ### Running an operation -/

/-- One micro-step by `body` from place `p`, and up to `n` further ones; where they run out, or the
operation yields, its place is stored by `suspend`. No other agent steps in between; the schedule of
the state says where one does (00_scope.md R8). -/
def runMicros {P : Type} (suspend : P → State → State) (body : P → State → Micro P) :
    Nat → P → State → State
  | 0, p, s =>
    match body p s with
    | .next p' s' => suspend p' s'
    | .yield p' s' => suspend p' s'
    | .done s' => s'
  | n + 1, p, s =>
    match body p s with
    | .next p' s' => runMicros suspend body n p' s'
    | .yield p' s' => suspend p' s'
    | .done s' => s'

/-- The body of an operation: micro-step `k` with the values `t` read so far. -/
abbrev OpBody := Nat → Tmp → State → Micro (Nat × Tmp)

/-- Store the place of operation `i` in the sequencer the CPU steps. -/
def suspendOp (i : Instr) (p : Nat × Tmp) (s : State) : State := s.setSeq (.inOp i p.1 p.2)

/-- A CPU turn of operation `i`: as many micro-steps as the turn has, from where the sequencer stands.
A sequencer that is inside another operation does not accept it and nothing happens. -/
def runOp (i : Instr) (body : OpBody) (s : State) : State :=
  match s.seq.place i with
  | some p => runMicros (suspendOp i) (fun p s => body p.1 p.2 s) s.quantum p s
  | none => s

/-- Go on at micro-step `k`. -/
def goto (k : Nat) (t : Tmp) (s : State) : Micro (Nat × Tmp) := .next (k, t) s

/-- Read a register into `tmp` and go on at micro-step `k`. -/
def readTo (r : Reg) (k : Nat) (t : Tmp) (s : State) : Micro (Nat × Tmp) :=
  .next (k, { t with word := s.regRead r }) s

/-- Write a register and go on at micro-step `k`. -/
def writeTo (r : Reg) (v : Word) (k : Nat) (t : Tmp) (s : State) : Micro (Nat × Tmp) :=
  .next (k, t) (s.regWrite r v)

/-! ### Ending an operation -/

/-- The handler has issued its last operation and returns, if it does: the dispatcher goes on with
step 2b (60_exceptions.md R226). -/
def State.handlerReturn (s : State) : State :=
  match s.ctx, s.handlerWords, s.handlerEnd, s.currentDispatch with
  | .handler, [], .returns, some d => s.setDispatch { d with phase := .clearRaw }
  | _, _, _, _ => s

/-- `respond`: the response word is produced and the sequencer becomes idle (00_scope.md R5, R210); in
the interrupt context and in a dispatch by hand this is the return from the dispatch, and nothing is
restored because nothing was saved (60_exceptions.md R221). -/
def State.respond (s : State) (a : Answer) : State :=
  ({ s with responses := s.responses ++ [(s.ctx, a.word)] }.setSeq .idle).handlerReturn

/-- `raise`: the fault is recorded and the sequencer becomes idle; there is no response
(60_exceptions.md R210). -/
def State.raise (s : State) (f : Fault) : State :=
  { s with faultLog := s.faultLog ++ [f] }.setSeq .idle

/-- An operation that ends with a response. -/
def answer (a : Answer) (s : State) : Micro (Nat × Tmp) := .done (s.respond a)

/-- An operation that ends with a fault. -/
def fail (f : Fault) (s : State) : Micro (Nat × Tmp) := .done (s.raise f)

/-! ### Bodies that several operations have -/

/-- Read, modify, write: two micro-steps, the write from the word as read (20_memory.md R46), then the
response. -/
def rmwBody (r : Reg) (f : Word → Word) : OpBody := fun k t s =>
  match k with
  | 1 => readTo r 2 t s
  | 2 => writeTo r (f t.word) 3 t s
  | _ => answer (.ok 0) s

/-- One blind write, then the response. -/
def writeBody (r : Reg) (v : Word) : OpBody := fun k t s =>
  match k with
  | 1 => writeTo r v 2 t s
  | _ => answer (.ok 0) s

/-- One read, then the response with a value computed from the word read. -/
def readBody (r : Reg) (f : Word → BitVec 48) : OpBody := fun k t s =>
  match k with
  | 1 => readTo r 2 t s
  | _ => answer (.ok (f t.word)) s

/-- One pure computation, then the response (00_scope.md R8: a pure computation is a micro-step). -/
def pureBody (value : BitVec 48) : OpBody := fun k t s =>
  match k with
  | 1 => goto 2 t s
  | _ => answer (.ok value) s

/-! ### Entry to a dispatch -/

/-- `TakeIrq` is enabled: the line is up, the interrupt context is idle, and the foreground is not
itself inside `handle_interrupt` (60_exceptions.md R219). Turns end between micro-steps, so the
foreground always is between two. -/
def State.takeIrqEnabled (s : State) : Bool := s.irq && !s.dispatching

/-- The entry to the dispatcher: the interrupt context leaves idle, and nothing is saved
(60_exceptions.md R219). -/
def State.takeIrq (s : State) : State := { s with seqIrq := .dispatch Dispatch.start }

end Sys2Proof.Machine
end

