-- ==== Sys2Proof/Machine/Planner.lean ====
section
/-! DEFINITION. The frequency/duty planner (42_planner.md): exact integer arithmetic on natural
numbers, narrowed at the end (R123, R125), and the operations `solve_top_divider`, `solve_compare`. -/

namespace Sys2Proof.Machine

open Sys2Proof

/-- `(top, div_int, div_frac)` (R122). -/
structure Plan where
  top     : BitVec 16
  divInt  : BitVec 8
  divFrac : BitVec 4
deriving DecidableEq, Repr

/-- `threshold_hz = system_clock_hz div 65536` (R121). -/
def thresholdHz (sys : Nat) : Nat := sys / Config.maxDuty

/-- The no-divider branch: `top = sys div f - 1`, divider `(1, 0)` (R122 step 5). -/
def planUndivided (sys freq : Nat) : Plan :=
  { top := BitVec.ofNat 16 (sys / freq - 1), divInt := 1, divFrac := 0 }

/-- The divider would be 256 or more (R122 step 6, R123). -/
def dividerTooLarge (threshold freq : Nat) : Bool := decide (256 * freq ≤ threshold)

/-- The divider branch: `top = 65535` and the floor of the exact quotient in sixteenths (R122
step 7, R123). -/
def planDivided (threshold freq : Nat) : Plan :=
  { top := 65535
    divInt := BitVec.ofNat 8 (threshold / freq)
    divFrac := BitVec.ofNat 4 (16 * (threshold % freq) / freq) }

/-- Steps 4 to 7 of R122; none is Unsupported-Divider. -/
def solveTopDivider (sys freq : Nat) : Option Plan :=
  let threshold := thresholdHz sys
  if threshold < freq then some (planUndivided sys freq)
  else if dividerTooLarge threshold freq then none
  else some (planDivided threshold freq)

/-- Steps 2 and 3 of R124 in natural numbers; none is Unrepresentable-Full-Duty. -/
def compareValue (top duty : Nat) : Option Nat :=
  if duty = Config.maxDuty then
    if top = 65535 then none else some (top + 1)
  else some ((top + 1) * duty / Config.maxDuty)

/-- The compare value as the 16 bits it is written as; R124 shows that it fits. -/
def solveCompare (top : BitVec 16) (duty : BitVec 32) : Option (BitVec 16) :=
  (compareValue top.toNat duty.toNat).map (BitVec.ofNat 16)

/-- The response value of a plan: `top | div_int << 16 | div_frac << 24` (R73, R122). -/
def Plan.value (p : Plan) : BitVec 48 := p.divFrac.setWidth 24 ++ p.divInt ++ p.top

/-- `ClockQuery()`, with 0 taken as absent (R127, 60_exceptions.md R227). -/
def State.clockQuery (s : State) : Option (BitVec 32) :=
  match s.sysClkHz with
  | none => none
  | some hz => if hz = 0 then none else some hz

/-- The check that a clock is there: sample it and go on at micro-step `k`. -/
def queryClock (k : Nat) (t : Tmp) (s : State) : Micro (Nat × Tmp) :=
  match s.clockQuery with
  | none => fail .clockAbsent s
  | some hz => .next (k, { t with sys := hz }) s

/-- The micro-steps of `solve_top_divider`, numbered as R122 numbers them. -/
def solveTopDividerBody (freq : BitVec 32) : OpBody := fun k t s =>
  match k with
  | 1 => if freq = 0 then fail (.preconditionViolated .frequencyZero) s else goto 2 t s
  | 2 => queryClock 3 t s
  | 3 =>
    if t.sys.toNat < freq.toNat then fail (.preconditionViolated .frequencyAboveClock) s
    else goto 4 t s
  | 4 => .next (5, { t with threshold := BitVec.ofNat 32 (thresholdHz t.sys.toNat) }) s
  | 5 =>
    if t.threshold.toNat < freq.toNat then
      answer (.ok (planUndivided t.sys.toNat freq.toNat).value) s
    else goto 6 t s
  | 6 =>
    if dividerTooLarge t.threshold.toNat freq.toNat then answer (.inval .unsupportedDivider) s
    else goto 7 t s
  | _ => answer (.ok (planDivided t.threshold.toNat freq.toNat).value) s

/-- `solve_top_divider(frequency_hz)` (R122). -/
def execSolveTopDivider (freq : BitVec 32) (s : State) : Host.Outcome State Fault Refusal :=
  .next (runOp (.solveTopDivider freq) (solveTopDividerBody freq) s)

/-- The micro-steps of `solve_compare`, numbered as R124 numbers them. -/
def solveCompareBody (top : BitVec 16) (duty : BitVec 32) : OpBody := fun k t s =>
  match k with
  | 1 =>
    if Config.maxDuty < duty.toNat then fail (.preconditionViolated .dutyAboveFullScale) s
    else goto 2 t s
  | 2 =>
    if duty.toNat = Config.maxDuty then
      match solveCompare top duty with
      | none => answer (.inval .unrepresentableFullDuty) s
      | some m => answer (.ok (m.setWidth 48)) s
    else goto 3 t s
  | _ =>
    match solveCompare top duty with
    | none => answer (.inval .unrepresentableFullDuty) s
    | some m => answer (.ok (m.setWidth 48)) s

/-- `solve_compare(top, duty_cycle)` (R124). -/
def execSolveCompare (top : BitVec 16) (duty : BitVec 32) (s : State) :
    Host.Outcome State Fault Refusal :=
  .next (runOp (.solveCompare top duty) (solveCompareBody top duty) s)

end Sys2Proof.Machine
end

