-- ==== Sys2Proof/Machine/Controller.lean ====
section
/-! DEFINITION. Channel controller (43_channel_controller.md): `start`, `stop`, `advance_phase`,
`retard_phase`, `get_counter`, `set_counter`, `mask_enable`, `read_reg`. -/

namespace Sys2Proof.Machine

open Sys2Proof

/-- The micro-steps of `start`, numbered as R140 numbers them. -/
def startBody (pin : BitVec 8) (freq duty : BitVec 32) : OpBody := fun k t s =>
  match k with
  | 1 => goto 2 t s
  | 2 =>
    if freq = 0 then fail (.preconditionViolated .frequencyZero) s
    else if Config.maxDuty < duty.toNat then fail (.preconditionViolated .dutyAboveFullScale) s
    else goto 3 t s
  | 3 =>
    match s.clockQuery with
    | none => fail .clockAbsent s
    | some hz =>
      if hz.toNat < freq.toNat then fail (.preconditionViolated .frequencyAboveClock) s
      else .next (4, { t with sys := hz }) s
  | 4 =>
    match solveTopDivider t.sys.toNat freq.toNat with
    | none => answer (.inval .unsupportedDivider) s
    | some p => .next (5, { t with top := p.top, divInt := p.divInt, divFrac := p.divFrac }) s
  | 5 => writeTo (.top (channelOf pin)) (t.top.setWidth 32) 6 t s
  | 6 => writeTo (.div (channelOf pin)) (dividerWord t.divInt (t.divFrac.setWidth 8)) 7 t s
  | 7 =>
    match solveCompare t.top duty with
    | none => answer (.inval .unrepresentableFullDuty) s
    | some m => .next (8, { t with compare := m }) s
  | 8 => readTo (.cc (channelOf pin)) 9 t s
  | 9 => writeTo (.cc (channelOf pin)) (ccWithSubPin t.word (subPinOf pin) t.compare) 10 t s
  | 10 => readTo (.csr (channelOf pin)) 11 t s
  | 11 => writeTo (.csr (channelOf pin)) (csrWithEnable t.word true) 12 t s
  | _ => answer (.ok 0) s

/-- `start(pin, frequency_hz, duty_cycle)` (R140). -/
def execStart (pin : BitVec 8) (freq duty : BitVec 32) (s : State) :
    Host.Outcome State Fault Refusal :=
  .next (runOp (.start pin freq duty) (startBody pin freq duty) s)

/-- The micro-steps of `stop`, numbered as R141 numbers them. -/
def stopBody (pin : BitVec 8) : OpBody := fun k t s =>
  match k with
  | 1 => goto 2 t s
  | 2 => readTo (.csr (channelOf pin)) 3 t s
  | 3 => writeTo (.csr (channelOf pin)) (csrWithEnable t.word false) 4 t s
  | _ => answer (.ok 0) s

/-- `stop(pin)` (R141). -/
def execStop (pin : BitVec 8) (s : State) : Host.Outcome State Fault Refusal :=
  .next (runOp (.stop pin) (stopBody pin) s)

/-- The micro-steps of a phase handshake: set the request, then poll with no iteration limit until the
timer array has cleared it (R142, R143). -/
def handshakeBody (c : ChannelId) (request : Word → Word) (pending : Word → Bool) : OpBody :=
  fun k t s =>
    match k with
    | 1 => readTo (.csr c) 2 t s
    | 2 => writeTo (.csr c) (request t.word) 3 t s
    | 3 => readTo (.csr c) 4 t s
    | 4 => goto (if pending t.word then 3 else 5) t s
    | _ => answer (.ok 0) s

/-- `advance_phase(channel)` (R142). -/
def execAdvancePhase (c : ChannelId) (s : State) : Host.Outcome State Fault Refusal :=
  .next (runOp (.advancePhase c) (handshakeBody c csrWithAdvance advancePending) s)

/-- `retard_phase(channel)` (R143). -/
def execRetardPhase (c : ChannelId) (s : State) : Host.Outcome State Fault Refusal :=
  .next (runOp (.retardPhase c) (handshakeBody c csrWithRetard retardPending) s)

/-- `get_counter(channel)` (R144): `value = t[15:0]`. -/
def execGetCounter (c : ChannelId) (s : State) : Host.Outcome State Fault Refusal :=
  .next (runOp (.getCounter c) (readBody (.ctr c) fun t => (t.setWidth 16).setWidth 48) s)

/-- `set_counter(channel, value)` (R145). -/
def execSetCounter (c : ChannelId) (value : BitVec 16) (s : State) :
    Host.Outcome State Fault Refusal :=
  .next (runOp (.setCounter c value) (writeBody (.ctr c) (value.setWidth 32)) s)

/-- `mask_enable(bitmask)` (R146): all the named channels in one write of `EN`. -/
def execMaskEnable (bitmask : BitVec 8) (s : State) : Host.Outcome State Fault Refusal :=
  .next (runOp (.maskEnable bitmask) (rmwBody .en fun t => wideWithBits t bitmask) s)

/-- The micro-steps of `read_reg`; an offset that names no register is the fault `IllegalCommand`, as
it is for the decoder, and reads nothing (R148, 20_memory.md R43). -/
def readRegBody (offset : BitVec 8) : OpBody := fun k t s =>
  match k with
  | 1 =>
    match s.memRead offset.toNat with
    | none => fail .illegalCommand s
    | some w => .next (2, { t with word := w }) s
  | _ => answer (.ok (t.word.setWidth 48)) s

/-- `read_reg(offset)` (R148). -/
def execReadReg (offset : BitVec 8) (s : State) : Host.Outcome State Fault Refusal :=
  .next (runOp (.readReg offset) (readRegBody offset) s)

end Sys2Proof.Machine
end

