-- ==== Sys2Proof/Machine/Interrupt.lean ====
section
/-! DEFINITION. Interrupt operations and the dispatcher (44_interrupt_ops.md): `enable_interrupt`,
`disable_interrupt`, `force_interrupt`, `unforce_interrupt`, `clear_interrupt`, `set_handler`,
`handle_interrupt`, `get_int_status`. -/

namespace Sys2Proof.Machine

open Sys2Proof

/-- `enable_interrupt(channel)` (R170). -/
def execEnableInterrupt (c : ChannelId) (s : State) : Host.Outcome State Fault Refusal :=
  .next (runOp (.enableInterrupt c) (rmwBody .inte fun t => wideWithBits t (channelBit c)) s)

/-- `disable_interrupt(channel)` (R171). -/
def execDisableInterrupt (c : ChannelId) (s : State) : Host.Outcome State Fault Refusal :=
  .next (runOp (.disableInterrupt c) (rmwBody .inte fun t => wideWithoutBits t (channelBit c)) s)

/-- `force_interrupt(channel)` (R172). -/
def execForceInterrupt (c : ChannelId) (s : State) : Host.Outcome State Fault Refusal :=
  .next (runOp (.forceInterrupt c) (rmwBody .intf fun t => wideWithBits t (channelBit c)) s)

/-- `unforce_interrupt(channel)` (R173). -/
def execUnforceInterrupt (c : ChannelId) (s : State) : Host.Outcome State Fault Refusal :=
  .next (runOp (.unforceInterrupt c) (rmwBody .intf fun t => wideWithoutBits t (channelBit c)) s)

/-- `clear_interrupt(channel)` (R174): one write of the clear register, no read. -/
def execClearInterrupt (c : ChannelId) (s : State) : Host.Outcome State Fault Refusal :=
  .next (runOp (.clearInterrupt c) (writeBody .intr ((channelBit c).setWidth 32)) s)

/-- The micro-steps of `set_handler` (R175): the slot is overwritten, last writer wins. -/
def setHandlerBody (handle : Handle) : OpBody := fun k t s =>
  match k with
  | 1 => goto 2 t { s with handler := some handle }
  | _ => answer (.ok 0) s

/-- `set_handler(handle)` (R175). -/
def execSetHandler (handle : Handle) (s : State) : Host.Outcome State Fault Refusal :=
  .next (runOp (.setHandler handle) (setHandlerBody handle) s)

/-- `get_int_status()` (R176): `value = t[7:0]`. -/
def execGetIntStatus (s : State) : Host.Outcome State Fault Refusal :=
  .next (runOp .getIntStatus (readBody .ints fun t => (t.setWidth 8).setWidth 48) s)

/-! ### The dispatcher (R178) -/

/-- The first channel from `k` on, in ascending order, whose bit of the snapshot is set (R178 step 2,
60_exceptions.md R218). -/
def nextPending (snapshot : BitVec 8) (k : Nat) : Option ChannelId :=
  (List.finRange 8).find? fun c => decide (k ≤ c.val) && snapshot.getLsbD c.val

/-- The dispatch put before the next channel from `k` on, or before step 3 where there is none. -/
def Dispatch.from (d : Dispatch) (k : Nat) : Dispatch :=
  match nextPending d.snapshot k with
  | some c => { d with chan := c, phase := .notify }
  | none => { d with phase := .respond }

/-- What the handler does in its call `fired(h, c)` in state `s` (60_exceptions.md R226). -/
def State.handlerCall (s : State) (h : Handle) (c : ChannelId) : HandlerCall :=
  match s.handlerBehaviour with
  | .scripted => s.handlerScript.headD .silent
  | .table rows =>
    match rows.find? fun r => r.handle == h && r.chan == c with
    | some r => r.call
    | none => .silent
  | .parameter => Config.handlerBehaviour h c s.view

/-- The script after a call: a scripted handler has used up its first entry. -/
def State.scriptAfterCall (s : State) : List HandlerCall :=
  match s.handlerBehaviour with
  | .scripted => s.handlerScript.tail
  | .table _ => s.handlerScript
  | .parameter => s.handlerScript

/-- The call is recorded (10_state.md R27). -/
def State.recordCall (s : State) (h : Handle) (c : ChannelId) : State :=
  { s with firedLog := s.firedLog ++ [(h, c)], handlerScript := s.scriptAfterCall }

/-- The handler runs: one that issues nothing and returns does so at once; any other is left to the
handler's sequencer. -/
def runHandler (d : Dispatch) (call : HandlerCall) (s : State) : Micro Dispatch :=
  if call = .silent then .next { d with phase := .clearRaw } s
  else
    .yield { d with phase := .handler }
      { s with handlerWords := call.words, handlerEnd := call.ending }

/-- Step 2a: `fired(h, c)` is called; the slot is read here, at each notification
(92_eei_decisions.md D18). With no handler registered there is no call. -/
def notifyHandler (d : Dispatch) (s : State) : Micro Dispatch :=
  match s.handler with
  | none => .next { d with phase := .clearRaw } s
  | some h => runHandler d (s.handlerCall h d.chan) (s.recordCall h d.chan)

/-- One micro-step of the dispatcher: steps 1, 2a to 2d and 3 of R178. In the phase `handler` the
handler's sequencer steps instead. -/
def dispatchBody (d : Dispatch) (s : State) : Micro Dispatch :=
  match d.phase with
  | .readStatus => .next ({ d with snapshot := (s.regRead .ints).setWidth 8 }.from 0) s
  | .notify => notifyHandler d s
  | .handler => .yield d s
  | .clearRaw =>
    .next { d with phase := .unforceRead } (s.regWrite .intr ((channelBit d.chan).setWidth 32))
  | .unforceRead => .next { d with phase := .unforceWrite, tmp := s.regRead .intf } s
  | .unforceWrite =>
    .next (d.from (d.chan.val + 1)) (s.regWrite .intf (wideWithoutBits d.tmp (channelBit d.chan)))
  | .respond => .done (s.respond (.ok 0))

/-- Store the place of the dispatch in the sequencer that runs it. -/
def suspendDispatch (d : Dispatch) (s : State) : State := s.setDispatch d

/-- A CPU turn of the dispatcher. -/
def runDispatch (s : State) : State :=
  match s.currentDispatch with
  | some d => runMicros suspendDispatch dispatchBody s.quantum d s
  | none => s

/-- Step 0 of R178 where the foreground accepts `handle_interrupt`; the rest of the turn goes on with
step 1. -/
def enterDispatch (s : State) : State :=
  match s.quantum with
  | 0 => { s with seqFg := .dispatch Dispatch.start }
  | n + 1 => runMicros suspendDispatch dispatchBody n Dispatch.start s

/-- A CPU turn of `handle_interrupt` (R178): presented by the foreground while no dispatch is in
progress it enters one; presented by the handler it raises `Reentrancy`; inside a dispatch the
dispatcher goes on. -/
def handleInterruptTurn (s : State) : State :=
  match s.ctx, s.seq with
  | .handler, .idle => s.raise .reentrancy
  | .handler, _ => s
  | .foreground, .idle => enterDispatch s
  | .foreground, .inOp _ _ _ => s
  | .foreground, .dispatch _ => runDispatch s
  | .interrupt, _ => runDispatch s

/-- `handle_interrupt()` (R178). -/
def execHandleInterrupt (s : State) : Host.Outcome State Fault Refusal :=
  .next (handleInterruptTurn s)

end Sys2Proof.Machine
end

