-- ==== Sys2Proof/Machine/Mapping.lean ====
section
/-! DEFINITION. Channel/pin identity mapping (40_pin_mapping.md): `map_pin`, `pin_of`. -/

namespace Sys2Proof.Machine

open Sys2Proof

/-- `map_pin(pin)` (R91): `value = c | (s << 8)`. -/
def execMapPin (pin : BitVec 8) (s : State) : Host.Outcome State Fault Refusal :=
  .next (runOp (.mapPin pin)
    (pureBody (BitVec.ofNat 48 ((channelOf pin).val + (subPinOf pin).toNat * 2 ^ 8))) s)

/-- `pin_of(channel, subpin)` (R92): the lowest pin ordinal of the pair. -/
def execPinOf (c : ChannelId) (sp : SubPin) (s : State) : Host.Outcome State Fault Refusal :=
  .next (runOp (.pinOf c sp) (pureBody (BitVec.ofNat 48 (pinOrdinal c sp))) s)

end Sys2Proof.Machine
end

