-- ==== Sys2Proof/Machine/Setters.lean ====
section
/-! DEFINITION. Channel configuration (41_config_setters.md): the eight setters and `configure`. -/

namespace Sys2Proof.Machine

open Sys2Proof

/-- `set_enabled(channel, en)` (R101). -/
def execSetEnabled (c : ChannelId) (en : Bool) (s : State) : Host.Outcome State Fault Refusal :=
  .next (runOp (.setEnabled c en) (rmwBody (.csr c) fun t => csrWithEnable t en) s)

/-- `set_ph_correct(channel, ph)` (R102). -/
def execSetPhCorrect (c : ChannelId) (ph : Bool) (s : State) : Host.Outcome State Fault Refusal :=
  .next (runOp (.setPhCorrect c ph) (rmwBody (.csr c) fun t => csrWithPhCorrect t ph) s)

/-- `set_invert(channel, inv_a, inv_b)` (R103). -/
def execSetInvert (c : ChannelId) (invA invB : Bool) (s : State) :
    Host.Outcome State Fault Refusal :=
  .next (runOp (.setInvert c invA invB) (rmwBody (.csr c) fun t => csrWithInvert t invA invB) s)

/-- `set_div_mode(channel, mode)` (R104). -/
def execSetDivMode (c : ChannelId) (mode : DivMode) (s : State) : Host.Outcome State Fault Refusal :=
  .next (runOp (.setDivMode c mode) (rmwBody (.csr c) fun t => csrWithDivMode t mode) s)

/-- The micro-steps of `set_divider`: a malformed divider ends the call with `OK` and no register
access (R105). -/
def setDividerBody (c : ChannelId) (divInt divFrac : BitVec 8) : OpBody := fun k t s =>
  match k with
  | 1 => if dividerMalformed divInt divFrac then answer (.ok 0) s else goto 2 t s
  | 2 => writeTo (.div c) (dividerWord divInt divFrac) 3 t s
  | _ => answer (.ok 0) s

/-- `set_divider(channel, div_int, div_frac)` (R105). -/
def execSetDivider (c : ChannelId) (divInt divFrac : BitVec 8) (s : State) :
    Host.Outcome State Fault Refusal :=
  .next (runOp (.setDivider c divInt divFrac) (setDividerBody c divInt divFrac) s)

/-- `set_compare_a(channel, value)` (R106). -/
def execSetCompareA (c : ChannelId) (value : BitVec 16) (s : State) :
    Host.Outcome State Fault Refusal :=
  .next (runOp (.setCompareA c value) (rmwBody (.cc c) fun t => ccWithA t value) s)

/-- `set_compare_b(channel, value)` (R107). -/
def execSetCompareB (c : ChannelId) (value : BitVec 16) (s : State) :
    Host.Outcome State Fault Refusal :=
  .next (runOp (.setCompareB c value) (rmwBody (.cc c) fun t => ccWithB t value) s)

/-- `set_top(channel, value)` (R108). -/
def execSetTop (c : ChannelId) (value : BitVec 16) (s : State) : Host.Outcome State Fault Refusal :=
  .next (runOp (.setTop c value) (writeBody (.top c) (value.setWidth 32)) s)

/-- The micro-steps of `configure`: the eight setters' micro-steps in the order of R109, a malformed
divider being skipped. -/
def configureBody (c : ChannelId) (snap : Snapshot) : OpBody := fun k t s =>
  match k with
  | 1 => readTo (.csr c) 2 t s
  | 2 => writeTo (.csr c) (csrWithPhCorrect t.word snap.phCorrect) 3 t s
  | 3 => readTo (.csr c) 4 t s
  | 4 => writeTo (.csr c) (csrWithInvert t.word snap.invA snap.invB) 5 t s
  | 5 => readTo (.csr c) 6 t s
  | 6 => writeTo (.csr c) (csrWithDivMode t.word snap.divMode) 7 t s
  | 7 => writeTo (.top c) (snap.top.setWidth 32) 8 t s
  | 8 => goto (if dividerMalformed snap.divInt snap.divFrac then 10 else 9) t s
  | 9 => writeTo (.div c) (dividerWord snap.divInt snap.divFrac) 10 t s
  | 10 => readTo (.cc c) 11 t s
  | 11 => writeTo (.cc c) (ccWithA t.word snap.ccA) 12 t s
  | 12 => readTo (.cc c) 13 t s
  | 13 => writeTo (.cc c) (ccWithB t.word snap.ccB) 14 t s
  | 14 => readTo (.csr c) 15 t s
  | 15 => writeTo (.csr c) (csrWithEnable t.word snap.en) 16 t s
  | _ => answer (.ok 0) s

/-- `configure(channel, snapshot)` (R109). -/
def execConfigure (c : ChannelId) (snap : Snapshot) (s : State) : Host.Outcome State Fault Refusal :=
  .next (runOp (.configure c snap) (configureBody c snap) s)

end Sys2Proof.Machine
end

