-- ==== Sys2Proof/Machine/Dispatch.lean ====
section
/-! DEFINITION. The meaning of every operation: one arm per constructor of `Instr`. -/

namespace Sys2Proof.Machine

open Sys2Proof

def exec (i : Instr) (s : State) : Host.Outcome State Fault Refusal :=
  match i with
  -- 40_pin_mapping.md
  | .mapPin pin => Sys2Proof.Machine.execMapPin pin s
  | .pinOf c sp => Sys2Proof.Machine.execPinOf c sp s
  -- 41_config_setters.md
  | .setEnabled c en => Sys2Proof.Machine.execSetEnabled c en s
  | .setPhCorrect c ph => Sys2Proof.Machine.execSetPhCorrect c ph s
  | .setInvert c invA invB => Sys2Proof.Machine.execSetInvert c invA invB s
  | .setDivMode c mode => Sys2Proof.Machine.execSetDivMode c mode s
  | .setDivider c divInt divFrac => Sys2Proof.Machine.execSetDivider c divInt divFrac s
  | .setCompareA c value => Sys2Proof.Machine.execSetCompareA c value s
  | .setCompareB c value => Sys2Proof.Machine.execSetCompareB c value s
  | .setTop c value => Sys2Proof.Machine.execSetTop c value s
  | .configure c snap => Sys2Proof.Machine.execConfigure c snap s
  -- 42_planner.md
  | .solveTopDivider freq => Sys2Proof.Machine.execSolveTopDivider freq s
  | .solveCompare top duty => Sys2Proof.Machine.execSolveCompare top duty s
  -- 43_channel_controller.md
  | .start pin freq duty => Sys2Proof.Machine.execStart pin freq duty s
  | .stop pin => Sys2Proof.Machine.execStop pin s
  | .advancePhase c => Sys2Proof.Machine.execAdvancePhase c s
  | .retardPhase c => Sys2Proof.Machine.execRetardPhase c s
  | .getCounter c => Sys2Proof.Machine.execGetCounter c s
  | .setCounter c value => Sys2Proof.Machine.execSetCounter c value s
  | .maskEnable bitmask => Sys2Proof.Machine.execMaskEnable bitmask s
  -- 44_interrupt_ops.md
  | .enableInterrupt c => Sys2Proof.Machine.execEnableInterrupt c s
  | .disableInterrupt c => Sys2Proof.Machine.execDisableInterrupt c s
  | .forceInterrupt c => Sys2Proof.Machine.execForceInterrupt c s
  | .unforceInterrupt c => Sys2Proof.Machine.execUnforceInterrupt c s
  | .clearInterrupt c => Sys2Proof.Machine.execClearInterrupt c s
  | .setHandler handle => Sys2Proof.Machine.execSetHandler handle s
  | .handleInterrupt => Sys2Proof.Machine.execHandleInterrupt s
  | .getIntStatus => Sys2Proof.Machine.execGetIntStatus s
  -- 43_channel_controller.md R148
  | .readReg offset => Sys2Proof.Machine.execReadReg offset s

end Sys2Proof.Machine
end

