-- ==== Sys2Proof/Machine/TimerArray.lean ====
section
/-! DEFINITION. The timer array and the environment (45_timer_array.md, 60_exceptions.md R219, R227):
the hardware-driven steps `Tick`, `PinB`, `wrap`, `AdvAck`, `RetAck`, the predicate `Running`, the
counter's step, the outputs, and the steps of the environment. They have no encoding; the schedule of
the state says when one happens. An event that is not enabled when its turn comes does not happen. -/

namespace Sys2Proof.Machine

open Sys2Proof

/-! ### When a channel runs -/

/-- `DivEventPossible(c)` (R190): in gated-high mode the B pin must be high. -/
def Channel.divEventPossible (ch : Channel) : Bool :=
  match ch.divMode with
  | .freeRunning => true
  | .gatedHigh => ch.pinBIn
  | .risingEdge => true
  | .fallingEdge => true

/-- `Running(c)` (R190). -/
def Channel.running (ch : Channel) : Bool := ch.en && ch.divEventPossible

/-- A `Tick` of its own, that is not part of a `PinB` step, is possible: the edge modes count only
with an edge (R190, R193). -/
def Channel.tickEnabled (ch : Channel) : Bool :=
  match ch.divMode with
  | .freeRunning => ch.running
  | .gatedHigh => ch.running
  | .risingEdge => false
  | .fallingEdge => false

/-- `AdvAck(c)` is enabled: a request is pending, the channel runs, and the divider is above 1
(R196). -/
def Channel.advAckEnabled (ch : Channel) : Bool :=
  ch.phAdv && ch.running && decide (16 < ch.dividerValue16)

/-- `RetAck(c)` is enabled: a request is pending and the channel runs (R197). -/
def Channel.retAckEnabled (ch : Channel) : Bool := ch.phRet && ch.running

/-! ### One count -/

/-- A count in trailing-edge mode: at the top the counter goes to 0 with a wrap, elsewhere it counts up
modulo 65536, and passing 65535 is no wrap (R191, 92_eei_decisions.md D39). -/
def trailingEdgeStep (ctr top : BitVec 16) (dir : Dir) : CountResult :=
  if ctr = top then { ctr := 0, dir := dir, wrapped := true }
  else { ctr := ctr + 1, dir := dir, wrapped := false }

/-- The reference choice of `CounterStep`: up to the top, one step to reverse, down to 0, one step to
reverse and wrap (R192). -/
def referenceCounterStep (ctr top : BitVec 16) (dir : Dir) : CountResult :=
  match dir with
  | .up =>
    if ctr.toNat < top.toNat then { ctr := ctr + 1, dir := .up, wrapped := false }
    else { ctr := ctr, dir := .down, wrapped := false }
  | .down =>
    if 0 < ctr.toNat then { ctr := ctr - 1, dir := .down, wrapped := false }
    else { ctr := ctr, dir := .up, wrapped := true }

/-- The phase-correct step function the machine has: the reference choice or the OPEN parameter. -/
def CounterStepChoice.apply (x : CounterStepChoice) (ctr top : BitVec 16) (dir : Dir) : CountResult :=
  match x with
  | .reference => referenceCounterStep ctr top dir
  | .parameter => Config.counterStep ctr top dir

/-- What a count does to counter and direction, by the channel's mode (R191, R192). -/
def Channel.countResult (ch : Channel) (x : CounterStepChoice) : CountResult :=
  if ch.phCorrect then x.apply ch.ctr ch.top ch.dir else trailingEdgeStep ch.ctr ch.top ch.dir

/-- The channel after a count: counter and direction, the fraction accumulator, and a wrap ends the
period in which the outputs are open (R199). -/
def Channel.counted (ch : Channel) (x : CounterStepChoice) : Channel :=
  { ch with
    ctr := (ch.countResult x).ctr
    dir := (ch.countResult x).dir
    fracAcc := Config.fracAccNext ch.fracAcc ch.div
    disturbed := ch.disturbed && !(ch.countResult x).wrapped }

/-- `wrap(c)`: the raw interrupt is latched (R195). -/
def State.latchWrap (s : State) (c : ChannelId) (wrapped : Bool) : State :=
  if wrapped then { s with intr := s.intr ||| channelBit c } else s

/-- One count of channel `c`. With divider integer part 0, which no operation can bring about, a count
is a fault (93_implementation_defined.md U1). -/
def State.count (s : State) (c : ChannelId) : State :=
  if (s.chan c).divInt = 0 then { s with faultLog := s.faultLog ++ [.dividerZero] }
  else
    (s.setChan c ((s.chan c).counted s.counterStep)).latchWrap c
      ((s.chan c).countResult s.counterStep).wrapped

/-! ### The steps -/

/-- `Tick(c)` (R191, R192). -/
def State.tick (s : State) (c : ChannelId) : State :=
  if (s.chan c).tickEnabled then s.count c else s

/-- `PH_ADV <- 0`. -/
def Channel.clearAdv (ch : Channel) : Channel := { ch with csr := ch.csr &&& 0x7F#8 }

/-- `PH_RET <- 0`. -/
def Channel.clearRet (ch : Channel) : Channel := { ch with csr := ch.csr &&& 0xBF#8 }

/-- `AdvAck(c)`: the request is cleared and the counter takes one extra count (R196). -/
def State.advAck (s : State) (c : ChannelId) : State :=
  if (s.chan c).advAckEnabled then (s.setChan c (s.chan c).clearAdv).count c else s

/-- `RetAck(c)`: the request is cleared and the counter is unchanged (R197). -/
def State.retAck (s : State) (c : ChannelId) : State :=
  if (s.chan c).retAckEnabled then s.setChan c (s.chan c).clearRet else s

/-- The new level of the B pin; the old one is kept as the previous level (R193). -/
def Channel.withPinB (ch : Channel) (level : Bool) : Channel :=
  { ch with pinBIn := level, pinBPrev := ch.pinBIn }

/-- The level change is an edge that the channel's mode counts (R193). -/
def Channel.edgeMatches (ch : Channel) (level : Bool) : Bool :=
  match ch.divMode with
  | .freeRunning => false
  | .gatedHigh => false
  | .risingEdge => !ch.pinBIn && level
  | .fallingEdge => ch.pinBIn && !level

/-- `PinB(c, v)`: the level changes at any time; in the edge modes a matching edge may carry a count of
a running channel, and `counts` says whether it does (R193, U14). -/
def State.pinB (s : State) (c : ChannelId) (level counts : Bool) : State :=
  if counts && (s.chan c).edgeMatches level && (s.chan c).running then
    (s.setChan c ((s.chan c).withPinB level)).count c
  else s.setChan c ((s.chan c).withPinB level)

/-- The event may happen. -/
def State.eventEnabled (s : State) : Event → Bool
  | .tick c => (s.chan c).tickEnabled
  | .advAck c => (s.chan c).advAckEnabled
  | .retAck c => (s.chan c).retAckEnabled
  | .pinB _ _ _ => true
  | .takeIrq => s.takeIrqEnabled
  | .clock _ => true

/-- The effect of an event's turn. -/
def State.event (s : State) : Event → State
  | .tick c => s.tick c
  | .advAck c => s.advAck c
  | .retAck c => s.retAck c
  | .pinB c level counts => s.pinB c level counts
  | .takeIrq => if s.takeIrqEnabled then s.takeIrq else s
  | .clock hz => { s with sysClkHz := hz }

/-! ### Outputs -/

/-- The output of one sub-pin before inversion: high while the counter is below the compare value. In
phase-correct mode with the OPEN `CounterStep` it is open (R198). -/
def Channel.outputLevel (ch : Channel) (x : CounterStepChoice) (compare : BitVec 16) : Bool :=
  match ch.phCorrect, x with
  | true, .parameter => Config.phaseOutput ch.ctr compare ch.top ch.dir
  | true, .reference => decide (ch.ctr.toNat < compare.toNat)
  | false, _ => decide (ch.ctr.toNat < compare.toNat)

/-- The outputs of the channel are determined: it is enabled and undisturbed (R198, R199, U3, U15). -/
def Channel.outputsDetermined (ch : Channel) : Bool := ch.en && !ch.disturbed

/-- `out_a[c]` (R198). -/
def State.outA (s : State) (c : ChannelId) : Bool :=
  if (s.chan c).outputsDetermined then
    ((s.chan c).outputLevel s.counterStep (s.chan c).ccA) ^^ (s.chan c).aInv
  else Config.openOutput s.draws c .A

/-- `out_b[c]`; none where the B pin is an input (R198). -/
def State.outB (s : State) (c : ChannelId) : Option Bool :=
  match (s.chan c).divMode with
  | .freeRunning =>
    some (if (s.chan c).outputsDetermined then
        ((s.chan c).outputLevel s.counterStep (s.chan c).ccB) ^^ (s.chan c).bInv
      else Config.openOutput s.draws c .B)
  | .gatedHigh => none
  | .risingEdge => none
  | .fallingEdge => none

end Sys2Proof.Machine
end

