-- ==== Sys2Proof/Machine/Turn.lean ====
section
/-! DEFINITION. A turn of the CPU: which operation the running sequencer goes on with, or which command
it accepts (10_state.md R22, 30_encoding.md R72), and how a command is placed where the next step
accepts it. -/

namespace Sys2Proof.Machine

open Sys2Proof

/-- A command word is presented to an idle sequencer: it is decoded, and a word that is no command is
the fault `IllegalCommand`, touching no state (30_encoding.md R71). -/
def present (w : CmdWord) (s : State) : Host.Outcome State Fault Refusal :=
  match decode w with
  | .ok i => exec i s
  | .error _ => .next (s.raise .illegalCommand)

/-- The foreground's turn: go on with the operation in progress, or accept the next command. The word
is sampled once, as the sequencer leaves idle (20_memory.md R50). With no command there is nothing to
do. -/
def foregroundTurn (s : State) : Host.Outcome State Fault Refusal :=
  match s.seqFg with
  | .inOp i _ _ => exec i s
  | .dispatch _ => exec .handleInterrupt s
  | .idle =>
    match s.port with
    | [] => .next s
    | w :: ws => present w { s with port := ws }

/-- The command the running handler issues next, and those after it: the first it has still to issue, or,
where it never returns, the first of those it issues over and over. -/
def State.nextHandlerWord (s : State) : Option (CmdWord × List CmdWord) :=
  match s.handlerWords, s.handlerEnd with
  | w :: ws, _ => some (w, ws)
  | [], .again (w :: ws) => some (w, ws)
  | [], .again [] => none
  | [], .returns => none

/-- The handler's turn, inside a dispatch: go on with its operation, issue its next command, or return
(60_exceptions.md R226). A handler that does neither hangs, and the dispatch and the foreground with
it. -/
def handlerTurn (s : State) : Host.Outcome State Fault Refusal :=
  match s.seqHandler with
  | .inOp i _ _ => exec i s
  | .dispatch _ => exec .handleInterrupt s
  | .idle =>
    match s.nextHandlerWord with
    | none => .next s.handlerReturn
    | some (w, ws) => present w { s with handlerWords := ws }

/-- The CPU's turn. While a dispatch is in progress in the interrupt context the foreground does not
step (60_exceptions.md R219). -/
def cpuTurn (s : State) : Host.Outcome State Fault Refusal :=
  match s.ctx with
  | .foreground => foregroundTurn s
  | .interrupt => exec .handleInterrupt s
  | .handler => handlerTurn s

/-- The state a turn starts from: the schedule without that turn, the CPU's quantum, and a fresh draw
for the open output levels. -/
def State.beginTurn (s : State) (rest : List Turn) (more : Nat) : State :=
  { s with schedule := rest, quantum := more, draws := s.draws + 1 }

/-- A turn of the machine. -/
def turn (s : State) : Host.Outcome State Fault Refusal :=
  match s.schedule with
  | [] => cpuTurn (s.beginTurn [] Config.fullQuantum)
  | .cpu more :: rest => cpuTurn (s.beginTurn rest more)
  | .event e :: rest => .next ((s.beginTurn rest s.quantum).event e)

/-- A command placed so that the very next step accepts it: at the head of the port, the CPU's turn
first, every sequencer idle, and no fault recorded. -/
def State.placeCommand (s : State) (nbits w : Nat) : State :=
  { s with
    port := BitVec.ofNat 96 (w % 2 ^ nbits) :: s.port
    schedule := .cpu Config.fullQuantum :: s.schedule
    seqFg := .idle, seqIrq := .idle, seqHandler := .idle
    handlerWords := [], handlerEnd := .returns, faultLog := [] }

end Sys2Proof.Machine
end

