-- ==== Sys2Proof/Machine/Step.lean ====
section
/-! DEFINITION. One step of the machine. -/

namespace Sys2Proof.Machine

open Sys2Proof

/-- A recorded fault ends the run (60_exceptions.md R210, 92_eei_decisions.md D38); otherwise the agent
whose turn it is takes it. -/
def step (s : State) : Host.Outcome State Fault Refusal :=
  match s.faultLog with
  | f :: _ => .fault f
  | [] => turn s

/-- `s` with the command word `w` where `step` accepts its next command. -/
def State.withFetchWord (s : State) (nbits w : Nat) : State := s.placeCommand nbits w

end Sys2Proof.Machine
end

