-- ==== Sys2Proof/Safety.lean ====
section
/-! DEFINITION. The terms claims are stated in: when a sequencer accepts an operation, when an
operation has finished, what stays unchanged, the invariants of the machine, when a run has ended
(60_exceptions.md R228), and the weak fairness of the timer array (45_timer_array.md R190). -/

namespace Sys2Proof.Machine

open Sys2Proof

/-! ### Operations -/

/-- The CPU steps a sequencer that accepts operations, the foreground's or the handler's, and it is
idle (10_state.md R22). -/
def State.Accepts (s : State) : Prop := s.ctx ≠ .interrupt ∧ s.seq = .idle

/-- `t` follows `s` with the response `a`, and the sequencer that ran is idle (R210). -/
def Finished (s t : State) (a : Answer) : Prop :=
  t.responses = s.responses ++ [(s.ctx, a.word)] ∧
  (s.ctx = .foreground → t.seqFg = .idle) ∧
  (s.ctx = .handler → t.seqHandler = .idle) ∧
  (s.ctx = .interrupt → t.seqIrq = .idle)

/-- The operations that are one `RMW(R, mask, val)` and a response, with the register, the mask and the
value of 20_memory.md R46 as their rules give them (R101 to R104, R106, R107, R146, R170 to R173). -/
def rmwOf : Instr → Option (Reg × Word × Word)
  | .setEnabled c en => some (.csr c, 0x01, if en then 0x01 else 0)
  | .setPhCorrect c ph => some (.csr c, 0x02, if ph then 0x02 else 0)
  | .setInvert c invA invB => some (.csr c, 0x0C, (if invA then 0x04 else 0) ||| (if invB then 0x08 else 0))
  | .setDivMode c mode => some (.csr c, 0x30, BitVec.ofNat 32 (16 * mode.toNat))
  | .setCompareA c value => some (.cc c, 0x0000FFFF, value.setWidth 32)
  | .setCompareB c value => some (.cc c, 0xFFFF0000, value ++ 0#16)
  | .maskEnable bitmask => some (.en, bitmask.setWidth 32, bitmask.setWidth 32)
  | .enableInterrupt c => some (.inte, 1#32 <<< c.val, 1#32 <<< c.val)
  | .disableInterrupt c => some (.inte, 1#32 <<< c.val, 0)
  | .forceInterrupt c => some (.intf, 1#32 <<< c.val, 1#32 <<< c.val)
  | .unforceInterrupt c => some (.intf, 1#32 <<< c.val, 0)
  | .mapPin _ => none
  | .pinOf _ _ => none
  | .setDivider _ _ _ => none
  | .setTop _ _ => none
  | .configure _ _ => none
  | .solveTopDivider _ => none
  | .solveCompare _ _ => none
  | .start _ _ _ => none
  | .stop _ => none
  | .advancePhase _ => none
  | .retardPhase _ => none
  | .getCounter _ => none
  | .setCounter _ _ => none
  | .clearInterrupt _ => none
  | .setHandler _ => none
  | .handleInterrupt => none
  | .getIntStatus => none
  | .readReg _ => none

/-- The channel an operation names, by its index or by a pin that maps to it, where it writes that
channel's registers (10_state.md R10). -/
def writesChannel : Instr → Option ChannelId
  | .setEnabled c _ => some c
  | .setPhCorrect c _ => some c
  | .setInvert c _ _ => some c
  | .setDivMode c _ => some c
  | .setDivider c _ _ => some c
  | .setCompareA c _ => some c
  | .setCompareB c _ => some c
  | .setTop c _ => some c
  | .configure c _ => some c
  | .start pin _ _ => some (channelOf pin)
  | .stop pin => some (channelOf pin)
  | .advancePhase c => some c
  | .retardPhase c => some c
  | .setCounter c _ => some c
  | .mapPin _ => none
  | .pinOf _ _ => none
  | .solveTopDivider _ => none
  | .solveCompare _ _ => none
  | .getCounter _ => none
  | .maskEnable _ => none
  | .enableInterrupt _ => none
  | .disableInterrupt _ => none
  | .forceInterrupt _ => none
  | .unforceInterrupt _ => none
  | .clearInterrupt _ => none
  | .setHandler _ => none
  | .handleInterrupt => none
  | .getIntStatus => none
  | .readReg _ => none

/-- The operations that only observe or compute. -/
def observes : Instr → Bool
  | .mapPin _ => true
  | .pinOf _ _ => true
  | .solveTopDivider _ => true
  | .solveCompare _ _ => true
  | .getCounter _ => true
  | .getIntStatus => true
  | .readReg _ => true
  | .setEnabled _ _ => false
  | .setPhCorrect _ _ => false
  | .setInvert _ _ _ => false
  | .setDivMode _ _ => false
  | .setDivider _ _ _ => false
  | .setCompareA _ _ => false
  | .setCompareB _ _ => false
  | .setTop _ _ => false
  | .configure _ _ => false
  | .start _ _ _ => false
  | .stop _ => false
  | .advancePhase _ => false
  | .retardPhase _ => false
  | .setCounter _ _ => false
  | .maskEnable _ => false
  | .enableInterrupt _ => false
  | .disableInterrupt _ => false
  | .forceInterrupt _ => false
  | .unforceInterrupt _ => false
  | .clearInterrupt _ => false
  | .setHandler _ => false
  | .handleInterrupt => false

/-- The five bit operations on the interrupt registers (44_interrupt_ops.md R177), with their channel. -/
def interruptBitOf : Instr → Option ChannelId
  | .enableInterrupt c => some c
  | .disableInterrupt c => some c
  | .forceInterrupt c => some c
  | .unforceInterrupt c => some c
  | .clearInterrupt c => some c
  | .mapPin _ => none
  | .pinOf _ _ => none
  | .setEnabled _ _ => none
  | .setPhCorrect _ _ => none
  | .setInvert _ _ _ => none
  | .setDivMode _ _ => none
  | .setDivider _ _ _ => none
  | .setCompareA _ _ => none
  | .setCompareB _ _ => none
  | .setTop _ _ => none
  | .configure _ _ => none
  | .solveTopDivider _ => none
  | .solveCompare _ _ => none
  | .start _ _ _ => none
  | .stop _ => none
  | .advancePhase _ => none
  | .retardPhase _ => none
  | .getCounter _ => none
  | .setCounter _ _ => none
  | .maskEnable _ => none
  | .setHandler _ => none
  | .handleInterrupt => none
  | .getIntStatus => none
  | .readReg _ => none

/-- Every handler issues nothing and returns, the default of 92_eei_decisions.md D19. -/
def State.HandlersSilent (s : State) : Prop :=
  match s.handlerBehaviour with
  | .scripted => ∀ call ∈ s.handlerScript, call = .silent
  | .table rows => ∀ row ∈ rows, row.call = .silent
  | .parameter => ∀ h c view, Config.handlerBehaviour h c view = .silent

/-- The next turn is the CPU's (00_scope.md R7). -/
def State.CpuIsNext (s : State) : Prop := s.schedule = [] ∨ ∃ n rest, s.schedule = .cpu n :: rest

/-- The channels that are pending, in ascending order. -/
def State.pendingChannels (s : State) : List ChannelId := (List.finRange 8).filter fun c => s.pending c

/-! ### Places inside an operation and inside a dispatch -/

/-- A CPU turn of one micro-step comes to operation `i`, which stands before its micro-step `k` with the
values `tmp` (10_state.md R22). -/
def State.StandsAt (s : State) (i : Instr) (k : Nat) (tmp : Tmp) : Prop :=
  s.ctx ≠ .interrupt ∧ s.quantum = 0 ∧ s.seq = .inOp i k tmp

/-- The turn leaves the state `u`, with operation `i` before its micro-step `k`. -/
def comesTo (i : Instr) (k : Nat) (tmp : Tmp) (u : State) : Host.Outcome State Fault Refusal :=
  .next (u.setSeq (.inOp i k tmp))

/-- The turn of `handle_interrupt` leaves the state `u`, with the dispatch in progress at `d`. -/
def dispatchComesTo (d : Dispatch) (u : State) : Host.Outcome State Fault Refusal :=
  .next (u.setDispatch d)

/-- `c` is the first channel of a snapshot from ordinal `k` on (R178 step 2, R218). -/
def IsFirstFrom (snapshot : BitVec 8) (k : Nat) (c : ChannelId) : Prop :=
  k ≤ c.val ∧ snapshot.getLsbD c.val = true ∧
    ∀ e : ChannelId, k ≤ e.val → e.val < c.val → snapshot.getLsbD e.val = false

/-- No channel of a snapshot is left from ordinal `k` on. -/
def NoneFrom (snapshot : BitVec 8) (k : Nat) : Prop :=
  ∀ e : ChannelId, k ≤ e.val → snapshot.getLsbD e.val = false

/-! ### Counts -/

/-- `t` follows `s` by one count of channel `c` in trailing-edge mode, with its wrap
(45_timer_array.md R191, R195; 92_eei_decisions.md D39). -/
def CountsTrailingEdge (c : ChannelId) (s t : State) : Prop :=
  (t.chan c).dir = (s.chan c).dir ∧
  ((s.chan c).ctr = (s.chan c).top → (t.chan c).ctr = 0 ∧ t.intr = s.intr ||| 1#8 <<< c.val) ∧
  ((s.chan c).ctr ≠ (s.chan c).top →
    (t.chan c).ctr.toNat = ((s.chan c).ctr.toNat + 1) % 65536 ∧ t.intr = s.intr)

/-- `t` follows `s` by one count of channel `c` in phase-correct mode, with its wrap: what the OPEN
`CounterStep` gives, whatever it is, or the one of the four arms of the reference choice that applies
(45_timer_array.md R192, R195; 92_eei_decisions.md D20). -/
def CountsPhaseCorrect (c : ChannelId) (s t : State) : Prop :=
  (s.counterStep = .parameter →
    (t.chan c).ctr = (Config.counterStep (s.chan c).ctr (s.chan c).top (s.chan c).dir).ctr ∧
    (t.chan c).dir = (Config.counterStep (s.chan c).ctr (s.chan c).top (s.chan c).dir).dir ∧
    t.intr =
      (if (Config.counterStep (s.chan c).ctr (s.chan c).top (s.chan c).dir).wrapped then
        s.intr ||| 1#8 <<< c.val else s.intr)) ∧
  (s.counterStep = .reference →
    ((s.chan c).dir = .up → (s.chan c).ctr.toNat < (s.chan c).top.toNat →
      (t.chan c).ctr.toNat = (s.chan c).ctr.toNat + 1 ∧ (t.chan c).dir = .up ∧ t.intr = s.intr) ∧
    ((s.chan c).dir = .up → (s.chan c).top.toNat ≤ (s.chan c).ctr.toNat →
      (t.chan c).ctr = (s.chan c).ctr ∧ (t.chan c).dir = .down ∧ t.intr = s.intr) ∧
    ((s.chan c).dir = .down → 0 < (s.chan c).ctr.toNat →
      (t.chan c).ctr.toNat + 1 = (s.chan c).ctr.toNat ∧ (t.chan c).dir = .down ∧ t.intr = s.intr) ∧
    ((s.chan c).dir = .down → (s.chan c).ctr = 0 →
      (t.chan c).ctr = 0 ∧ (t.chan c).dir = .up ∧ t.intr = s.intr ||| 1#8 <<< c.val))

/-- One count of channel `c`, in the mode it is in. -/
def Counts (c : ChannelId) (s t : State) : Prop :=
  ((s.chan c).phCorrect = false → CountsTrailingEdge c s t) ∧
  ((s.chan c).phCorrect = true → CountsPhaseCorrect c s t)

/-- The level change of the B pin is the edge that the channel's mode counts (45_timer_array.md
R193). -/
def Channel.EdgeCounts (ch : Channel) (level : Bool) : Prop :=
  (ch.divMode = .risingEdge ∧ ch.pinBIn = false ∧ level = true) ∨
  (ch.divMode = .fallingEdge ∧ ch.pinBIn = true ∧ level = false)

/-- The hardware alone drives the channel's divider: it runs free, or it is gated and its pin is high
(45_timer_array.md R190). -/
def Channel.SelfDriven (ch : Channel) : Prop :=
  ch.divMode = .freeRunning ∨ (ch.divMode = .gatedHigh ∧ ch.pinBIn = true)

/-! ### Frames -/

/-- Channels other than `c` are unchanged. -/
def KeepsOtherChannels (c : ChannelId) (s t : State) : Prop := ∀ d, d ≠ c → t.chan d = s.chan d

/-- No channel is changed. -/
def KeepsChannels (s t : State) : Prop := ∀ d, t.chan d = s.chan d

/-- The interrupt registers are unchanged. -/
def KeepsInterrupts (s t : State) : Prop := t.intr = s.intr ∧ t.inte = s.inte ∧ t.intf = s.intf

/-- Of the channel only `CSR` may change, and whether its outputs are open. -/
def OnlyCsr (a b : Channel) : Prop := b = { a with csr := b.csr, disturbed := b.disturbed }

/-- Of the channel only `CC` may change, and whether its outputs are open. -/
def OnlyCc (a b : Channel) : Prop := b = { a with cc := b.cc, disturbed := b.disturbed }

/-- Of the channel only `TOP` may change, and whether its outputs are open. -/
def OnlyTop (a b : Channel) : Prop := b = { a with top := b.top, disturbed := b.disturbed }

/-- Of the channel only `DIV` may change, and whether its outputs are open. -/
def OnlyDiv (a b : Channel) : Prop := b = { a with div := b.div, disturbed := b.disturbed }

/-- Of the channel only `CSR`, `DIV`, `CC` and `TOP` may change, and whether its outputs are open: the
counter, its direction and the pins stay. -/
def OnlyConfiguration (a b : Channel) : Prop :=
  b = { a with csr := b.csr, div := b.div, cc := b.cc, top := b.top, disturbed := b.disturbed }

/-- `PH_RET` and `PH_ADV` are unchanged. -/
def KeepsRequests (a b : Channel) : Prop := b.phRet = a.phRet ∧ b.phAdv = a.phAdv

/-- What is neither a register nor a sequencer nor a response is unchanged: the handler slot, the
inputs, the logs. -/
def KeepsSurroundings (s t : State) : Prop :=
  t.handler = s.handler ∧ t.sysClkHz = s.sysClkHz ∧ t.port = s.port ∧ t.schedule = s.schedule ∧
  t.handlerScript = s.handlerScript ∧ t.handlerWords = s.handlerWords ∧
  t.handlerEnd = s.handlerEnd ∧ t.handlerBehaviour = s.handlerBehaviour ∧
  t.counterStep = s.counterStep ∧ t.firedLog = s.firedLog ∧ t.faultLog = s.faultLog

/-- The registers of the bank are unchanged. -/
def KeepsBank (s t : State) : Prop := KeepsChannels s t ∧ KeepsInterrupts s t

/-! ### Invariants -/

/-- A sequencer that stands before a write of `DIV` holds a divider whose integer part is not 0: the
plan of `start`, or the operands of `set_divider` and `configure` past their check. -/
def Seq.dividerLegal : Seq → Bool
  | .inOp (.start _ _ _) k t => (k != 5 && k != 6) || t.divInt != 0
  | .inOp (.setDivider _ divInt divFrac) k _ => k != 2 || !dividerMalformed divInt divFrac
  | .inOp (.configure _ snap) k _ => k != 9 || !dividerMalformed snap.divInt snap.divFrac
  | _ => true

/-- No channel has divider integer part 0, and none is about to (10_state.md R12). -/
def State.DividersLegal (s : State) : Prop :=
  (∀ c, (s.chan c).divInt ≠ 0) ∧ s.seqFg.dividerLegal = true ∧ s.seqHandler.dividerLegal = true

/-- The sequencer is in a dispatch. -/
def Seq.inDispatch : Seq → Bool
  | .dispatch _ => true
  | _ => false

/-- The sequencer is inside an ordinary operation, or idle: `handle_interrupt` has its own form. -/
def Seq.ordinary : Seq → Bool
  | .inOp .handleInterrupt _ _ => false
  | _ => true

/-- The channel a dispatch is processing is one of its snapshot (R178 step 2). -/
def Dispatch.legal (d : Dispatch) : Bool :=
  match d.phase with
  | .readStatus => true
  | .respond => true
  | .notify => d.snapshot.getLsbD d.chan.val
  | .handler => d.snapshot.getLsbD d.chan.val
  | .clearRaw => d.snapshot.getLsbD d.chan.val
  | .unforceRead => d.snapshot.getLsbD d.chan.val
  | .unforceWrite => d.snapshot.getLsbD d.chan.val

/-- The sequencers are where the machine can bring them (10_state.md R22, R23): at most one dispatch at
a time (R178), only inside the handler phase is the handler's sequencer at work, and a dispatch
processes a channel of its snapshot. -/
def State.SequencersLegal (s : State) : Prop :=
  (s.seqIrq ≠ .idle → s.seqFg.inDispatch = false) ∧
  s.seqHandler.inDispatch = false ∧
  s.seqFg.ordinary = true ∧ s.seqHandler.ordinary = true ∧
  (s.ctx ≠ .handler → s.seqHandler = .idle ∧ s.handlerWords = [] ∧ s.handlerEnd = .returns) ∧
  (∀ d, s.currentDispatch = some d → d.legal = true)

/-! ### Runs -/

/-- Nothing has gone wrong so far (60_exceptions.md R210). -/
def State.Faultless (s : State) : Prop := s.faultLog = []

/-- The run has ended: every command presented has responded, both sequencers are idle, and no fault is
recorded. It does not say that nothing is pending or that any channel is stopped (R228). -/
def State.RunEnded (s : State) : Prop :=
  s.port = [] ∧ s.seqFg = .idle ∧ s.seqIrq = .idle ∧ s.Faultless

/-- The foreground polls for the end of a phase handshake on channel `c` whose request bit is set: it is
before the poll's read, or before its test of a word that was read with the bit set (R142, R143). -/
def State.Polls (s : State) (i : Instr) (pending : Word → Bool) : Prop :=
  ∃ k t, s.seqFg = .inOp i k t ∧ (k = 3 ∨ (k = 4 ∧ pending t.word = true))

/-- The foreground polls an advance of channel `c` that the timer array cannot acknowledge as things
stand: the channel is stopped, or its divider is `(1, 0)` (70_reset_and_hazards.md R243, R244). -/
def State.StuckInAdvance (s : State) (c : ChannelId) : Prop :=
  s.Faultless ∧ s.seqIrq = .idle ∧ (∀ d, (s.chan d).divInt ≠ 0) ∧
  s.Polls (.advancePhase c) advancePending ∧ (s.chan c).phAdv = true ∧
  (s.stopped c = true ∨ (s.chan c).dividerValue16 = 16)

/-- The foreground polls a retard of channel `c`, which is stopped (R243). -/
def State.StuckInRetard (s : State) (c : ChannelId) : Prop :=
  s.Faultless ∧ s.seqIrq = .idle ∧ (∀ d, (s.chan d).divInt ≠ 0) ∧
  s.Polls (.retardPhase c) retardPending ∧ (s.chan c).phRet = true ∧ s.stopped c = true

/-- `t` follows `s` by the turn `tr`: the schedule is an input, and the outside supplies the turn. -/
def StepsBy (tr : Turn) (s t : State) : Prop := step { s with schedule := [tr] } = .next t

/-- An infinite run with its turns, which no fault ends. -/
def IsRun (turns : Nat → Turn) (run : Nat → State) : Prop :=
  ∀ n, StepsBy (turns n) (run n) (run (n + 1))

/-- Weak fairness of one event: if it is enabled from some point on for ever, its turn comes after every
point (R190). -/
def WeaklyFair (turns : Nat → Turn) (run : Nat → State) (e : Event) : Prop :=
  (∃ n, ∀ m, n ≤ m → (run m).eventEnabled e = true) → ∀ n, ∃ m, n ≤ m ∧ turns m = .event e

/-- The run is one that the timer array's fairness allows: `Tick`, `AdvAck` and `RetAck` of a channel are
fair where from some point on the channel is enabled and the hardware alone drives it: free-running, or
gated with its pin high. In the edge modes, and in gated-high mode with the pin low, progress depends on
the environment's pin and no fairness is assumed (R190). -/
def TimerFair (turns : Nat → Turn) (run : Nat → State) : Prop :=
  ∀ c, (∃ n, ∀ m, n ≤ m → ((run m).chan c).en = true ∧ ((run m).chan c).SelfDriven) →
    WeaklyFair turns run (.tick c) ∧ WeaklyFair turns run (.advAck c) ∧
      WeaklyFair turns run (.retAck c)

/-- The CPU's turn comes after every point. The spec names no fairness but the timer array's (00_scope.md
R9); that the CPU goes on taking turns is the model's own premise of an 'eventually' about an operation
(notes/assumptions/28.md, DESIGN CHOICE). -/
def CpuFair (turns : Nat → Turn) : Prop := ∀ n, ∃ m more, n ≤ m ∧ turns m = .cpu more

end Sys2Proof.Machine
end

