-- ==== Sys2Proof/Certificates/Slice0/Obligations.lean ====
section
/-! DEFINITION. The statements for the provers, in the terms of Sys2Proof/Safety.lean. Each docstring
says which rule of spec/ it formalises, and names the decision of 92_eei_decisions.md that the rule
itself marks, where there is one. A statement about what a CPU turn completes asks of the state that the
turn is long enough (`quantum`); the clauses on turns of one micro-step say what each micro-step does,
and the frame statements hold of every turn. That a turn has a length, that turns are listed in
`schedule`, and that each draws afresh are the model's own bookkeeping: notes/assumptions/2.md, 3.md and
8.md (DESIGN CHOICE). That the turn which accepts a command also runs its micro-step 1 is the model's
reading: 16.md (DEDUCED). -/

open Sys2Proof Sys2Proof.Machine

/-! ### Encoding (30_encoding.md) -/

/-- R67 to R70 (D23): no bit of an encoding is dropped. -/
def Obligations.DecodeOfEncodeIsIdentity : Prop :=
  ∀ i : Instr, i.WellFormed → decode (encode i) = .ok i

/-- R67 to R71 (D23): a word that decodes is the word of the operation it decodes to, so every
must-be-zero bit is 0 and every operand is in its range. -/
def Obligations.EncodeOfDecodeIsIdentity : Prop :=
  ∀ (w : CmdWord) (i : Instr), decode w = .ok i → encode i = w ∧ i.WellFormed

/-- R76: the eight encoding examples. -/
def Obligations.ExampleWordsDecodeToTheirOperations : Prop :=
  decode 0x3004000001DCD6500000C000#96 = .ok (.start 4 31250000 49152) ∧
  decode 0x310400000000000000000000#96 = .ok (.stop 4) ∧
  decode 0x420300000000000000000000#96 = .ok (.forceInterrupt 3) ∧
  decode 0x460000000000000000000000#96 = .ok .handleInterrupt ∧
  decode 0x140200000000001300000001#96 = .ok (.setDivider 2 19 1) ∧
  decode 0x1805002402080040123400FF#96 =
    .ok (.configure 5
      { en := true, phCorrect := false, invA := false, invB := true, divMode := .freeRunning
        divInt := 2, divFrac := 8, ccA := 0x1234, ccB := 0x0040, top := 0x00FF }) ∧
  decode 0x360500000000000000000000#96 = .ok (.maskEnable 0b00000101) ∧
  decode 0x5000000000000000000000B0#96 = .ok (.readReg 0xB0)

/-- R71 (D23, D25): a word that is the encoding of no operation, and every word whose opcode is in one
of the reserved ranges, is refused by the decoder; presenting such a word to the sequencer that runs
records the fault, produces no response, leaves the sequencer idle and touches nothing else. So a step in
which the CPU's turn comes and the port offers such a word to the idle foreground, or the running handler
to its own sequencer, records the fault and does no more than take the word. (That turns are listed in
`schedule` is the model's: log entry 3.) -/
def Obligations.IllegalWordsRaiseIllegalCommand : Prop :=
  (∀ w : CmdWord, (∀ i : Instr, i.WellFormed → encode i ≠ w) → ∃ e, decode w = .error e) ∧
  (∀ w : CmdWord,
    (opField w = 0x00 ∨ (0x03 ≤ opField w ∧ opField w ≤ 0x0F) ∨
      (0x19 ≤ opField w ∧ opField w ≤ 0x1F) ∨ (0x22 ≤ opField w ∧ opField w ≤ 0x2F) ∨
      (0x37 ≤ opField w ∧ opField w ≤ 0x3F) ∨ (0x48 ≤ opField w ∧ opField w ≤ 0x4F) ∨
      0x51 ≤ opField w) → decode w = .error .reservedOpcode) ∧
  (∀ (w : CmdWord) (e : DecodeError) (s : State), decode w = .error e → s.Accepts →
    ∃ t, present w s = .next t ∧ t.faultLog = s.faultLog ++ [.illegalCommand] ∧
      t.responses = s.responses ∧ KeepsBank s t ∧ t.handler = s.handler ∧
      t.firedLog = s.firedLog ∧ t.seq = .idle) ∧
  (∀ (w : CmdWord) (ws : List CmdWord) (e : DecodeError) (s : State), decode w = .error e →
    s.Faultless → s.CpuIsNext →
    (s.ctx = .foreground → s.seqFg = .idle → s.port = w :: ws →
      ∃ t, step s = .next t ∧ t.faultLog = [.illegalCommand] ∧ t.responses = s.responses ∧
        KeepsBank s t ∧ t.handler = s.handler ∧ t.firedLog = s.firedLog ∧ t.seqFg = .idle ∧
        t.port = ws) ∧
    (s.ctx = .handler → s.seqHandler = .idle →
      (s.handlerWords = w :: ws ∨ (s.handlerWords = [] ∧ s.handlerEnd = .again (w :: ws))) →
      ∃ t, step s = .next t ∧ t.faultLog = [.illegalCommand] ∧ t.responses = s.responses ∧
        KeepsBank s t ∧ t.handler = s.handler ∧ t.firedLog = s.firedLog ∧ t.seqHandler = .idle ∧
        t.handlerWords = ws ∧ t.currentDispatch = s.currentDispatch))

/-! ### Steps (10_state.md R22, 30_encoding.md R72) -/

/-- R22, R72: a step in which the CPU's turn comes, the foreground is idle and a command is presented is
`exec` of the operation the command decodes to; the step takes the command from the port. The rest of
what stands around `exec` here is the model's choice and in no rule: that turns are listed in `schedule`
and an empty list gives the CPU the turn (notes/assumptions/3.md, DESIGN CHOICE), that such a turn has
`Config.fullQuantum` further micro-steps and a listed one its own `quantum` (2.md, DESIGN CHOICE), and
that a turn adds one to `draws` (8.md, DESIGN CHOICE). -/
def Obligations.StepRunsTheDecodedCommand : Prop :=
  ∀ (s : State) (w : CmdWord) (ws : List CmdWord) (i : Instr),
    s.Faultless → s.ctx = .foreground → s.seqFg = .idle → s.port = w :: ws → decode w = .ok i →
    (s.schedule = [] →
      step s = exec i { s with port := ws, quantum := Config.fullQuantum, draws := s.draws + 1 }) ∧
    (∀ n rest, s.schedule = .cpu n :: rest →
      step s = exec i { s with port := ws, schedule := rest, quantum := n, draws := s.draws + 1 })

/-- A step in which the CPU's turn comes goes on with the operation in progress: the foreground's, the
interrupt context's dispatch, or the running handler's; an idle handler sequencer accepts the handler's
next command (20_memory.md R50, 60_exceptions.md R226); a handler with no command left returns, and the
dispatch stands before its step 2b; one that never returns issues its commands again, or hangs the
dispatch. `beginTurn` around `exec`, with the turn's length, the schedule and the draw, is the model's
choice: notes/assumptions/2.md, 3.md and 8.md (DESIGN CHOICE). -/
def Obligations.StepResumesTheOperationInProgress : Prop :=
  ∀ (s : State) (n : Nat) (rest : List Turn), s.Faultless →
    (s.schedule = .cpu n :: rest ∨ (s.schedule = [] ∧ n = Config.fullQuantum ∧ rest = [])) →
    (∀ i k t, s.ctx = .foreground → s.seqFg = .inOp i k t →
      step s = exec i (s.beginTurn rest n)) ∧
    (∀ d, s.ctx = .foreground → s.seqFg = .dispatch d →
      step s = exec .handleInterrupt (s.beginTurn rest n)) ∧
    (s.ctx = .interrupt → step s = exec .handleInterrupt (s.beginTurn rest n)) ∧
    (∀ i k t, s.ctx = .handler → s.seqHandler = .inOp i k t →
      step s = exec i (s.beginTurn rest n)) ∧
    (∀ i w ws, s.ctx = .handler → s.seqHandler = .idle →
      (s.handlerWords = w :: ws ∨ (s.handlerWords = [] ∧ s.handlerEnd = .again (w :: ws))) →
      decode w = .ok i → step s = exec i { s.beginTurn rest n with handlerWords := ws }) ∧
    (∀ d, s.ctx = .handler → s.seqHandler = .idle → s.handlerWords = [] →
      s.currentDispatch = some d →
      (s.handlerEnd = .returns →
        step s = dispatchComesTo { d with phase := .clearRaw } (s.beginTurn rest n)) ∧
      (s.handlerEnd = .again [] → step s = .next (s.beginTurn rest n)))

/-- R210 (D38): a recorded fault ends the run. -/
def Obligations.RecordedFaultEndsTheRun : Prop :=
  ∀ (s : State) (f : Fault) (fs : List Fault), s.faultLog = f :: fs → step s = .fault f

/-! ### Reset (10_state.md R28, 70_reset_and_hazards.md R240) -/

/-- R28, R240 (D22): what the reset table gives, read through the registers. -/
def Obligations.ResetGivesTheTablesValues : Prop :=
  (∀ c : ChannelId,
    State.reset.regRead (.csr c) = 0 ∧ State.reset.regRead (.div c) = 0x10 ∧
    State.reset.regRead (.ctr c) = 0 ∧ State.reset.regRead (.cc c) = 0 ∧
    State.reset.regRead (.top c) = 0xFFFF ∧ (State.reset.chan c).dir = .up ∧
    State.reset.stopped c = true ∧ State.reset.pending c = false ∧
    (State.reset.chan c).running = false) ∧
  State.reset.regRead .en = 0 ∧ State.reset.regRead .intr = 0 ∧ State.reset.regRead .inte = 0 ∧
  State.reset.regRead .intf = 0 ∧ State.reset.regRead .ints = 0 ∧ State.reset.irq = false ∧
  State.reset.handler = none ∧ State.reset.seqFg = .idle ∧ State.reset.seqIrq = .idle ∧
  State.reset.firedLog = [] ∧ State.reset.faultLog = []

/-- The two invariants below hold of the reset state. -/
def Obligations.ResetMeetsTheInvariants : Prop :=
  State.reset.DividersLegal ∧ State.reset.SequencersLegal

/-! ### Invariants of every step -/

/-- R12: "divider integer part is never 0", through every step of every agent. -/
def Obligations.StepKeepsDividersLegal : Prop :=
  ∀ s t : State, s.DividersLegal → step s = .next t → t.DividersLegal

/-- R22, R23, R178: at most one dispatch at a time, the handler's sequencer works only inside one, and a
dispatch processes a channel of its snapshot. -/
def Obligations.StepKeepsSequencersLegal : Prop :=
  ∀ s t : State, s.SequencersLegal → step s = .next t → t.SequencersLegal

/-- R21: once a handler is registered the slot never becomes empty again. -/
def Obligations.HandlerSlotNeverEmptiesAgain : Prop :=
  ∀ s t : State, step s = .next t → s.handler ≠ none → t.handler ≠ none

/-- R16, R52: software cannot set a raw-interrupt bit; only a wrap can. -/
def Obligations.NoOperationSetsARawInterrupt : Prop :=
  ∀ (i : Instr) (s t : State) (c : ChannelId), exec i s = .next t →
    t.intr.getLsbD c.val = true → s.intr.getLsbD c.val = true

/-- R212: a fault is raised before the operation writes anything, so it leaves no partial update, no
response and no change of the handler slot; one fault is recorded. -/
def Obligations.FaultLeavesNoPartialUpdate : Prop :=
  ∀ (i : Instr) (s t : State), exec i s = .next t → t.faultLog ≠ s.faultLog →
    KeepsBank s t ∧ t.handler = s.handler ∧ t.firedLog = s.firedLog ∧ t.responses = s.responses ∧
    ∃ f, t.faultLog = s.faultLog ++ [f]

/-- R27: the logs only grow; no step takes an entry out of `fired_log` or `fault_log`. -/
def Obligations.LogsOnlyGrow : Prop :=
  ∀ s t : State, step s = .next t → s.firedLog <+: t.firedLog ∧ s.faultLog <+: t.faultLog

/-! ### Register bank (20_memory.md) -/

/-- R40, R41, R43 (D8, D33): forty-five registers at the table's offsets, one register at each offset,
none at a misaligned offset or above `0xB0`. -/
def Obligations.RegisterMapIsTheTable : Prop :=
  (∀ c : ChannelId, regAt (0x14 * c.val) = some (.csr c) ∧ regAt (0x14 * c.val + 4) = some (.div c) ∧
    regAt (0x14 * c.val + 8) = some (.ctr c) ∧ regAt (0x14 * c.val + 0xC) = some (.cc c) ∧
    regAt (0x14 * c.val + 0x10) = some (.top c)) ∧
  regAt 0xA0 = some .en ∧ regAt 0xA4 = some .intr ∧ regAt 0xA8 = some .inte ∧
  regAt 0xAC = some .intf ∧ regAt 0xB0 = some .ints ∧
  (∀ a r, regAt a = some r → r.offset = a) ∧
  (∀ a, (regAt a).isSome = true ↔ a % 4 = 0 ∧ a ≤ 0xB0)

/-- R44, R45 (D11, D12, D29, D30): what each register reads after a write of `v`: the stored bits of `v`,
reserved bits 0; the requests of `CSR` set by 1 and kept by 0; the raw interrupts cleared by 1; `INTS`
unwritten and computed; `EN` the enable bits. -/
def Obligations.RegisterReadsWhatAWriteLeft : Prop :=
  ∀ (s : State) (v : Word) (c : ChannelId),
    (s.regWrite (.csr c) v).regRead (.csr c) = ((v &&& 0x3F) ||| ((s.regRead (.csr c) ||| v) &&& 0xC0)) ∧
    (s.regWrite (.div c) v).regRead (.div c) = v &&& 0xFFF ∧
    (s.regWrite (.ctr c) v).regRead (.ctr c) = v &&& 0xFFFF ∧
    (s.regWrite (.cc c) v).regRead (.cc c) = v ∧
    (s.regWrite (.top c) v).regRead (.top c) = v &&& 0xFFFF ∧
    (s.regWrite .en v).regRead .en = v &&& 0xFF ∧
    (s.regWrite .intr v).regRead .intr = s.regRead .intr &&& ~~~v ∧
    (s.regWrite .inte v).regRead .inte = v &&& 0xFF ∧
    (s.regWrite .intf v).regRead .intf = v &&& 0xFF ∧
    s.regWrite .ints v = s ∧
    s.regRead .ints = (s.regRead .intr &&& s.regRead .inte) ||| s.regRead .intf ∧
    ((s.regWrite .en v).chan c).en = v.getLsbD c.val ∧
    (∀ k, 1 ≤ k → ((s.regWrite .en v).chan c).csr.getLsbD k = (s.chan c).csr.getLsbD k)

/-- R45, R49: a write changes its own register alone; `CSR` and `EN` share the enable bits (R20), and
`INTS` is computed from the three it combines (R19). -/
def Obligations.RegisterWriteKeepsEveryOther : Prop :=
  ∀ (s : State) (r q : Reg) (v : Word), q ≠ r →
    (q ≠ .en ∨ ∀ c, r ≠ .csr c) → (r ≠ .en ∨ ∀ c, q ≠ .csr c) →
    (q ≠ .ints ∨ (r ≠ .intr ∧ r ≠ .inte ∧ r ≠ .intf)) →
    (s.regWrite r v).regRead q = s.regRead q

/-- R46 (D15): a read-modify-write is two micro-steps. The first changes no register and keeps the word
read; the second writes `(tmp & ~mask) | (val & mask)` from the word as it was read, whatever the register
holds by then. The eleven operations of `rmwOf` read in their micro-step 1, the accepting turn; `stop` is
one too, at the steps 2 and 3 of R141. (Those of `configure`, of `start` and of the phase operations are
in the statements about them.) The clauses on an accepting turn rest on two readings of the model: the
turn that accepts a command runs its micro-step 1 (notes/assumptions/16.md, DEDUCED, unsafe), and `tmp` is
all zero where nothing has been read into it (25.md, DEDUCED). -/
def Obligations.ReadModifyWriteIsTwoMicroSteps : Prop :=
  (∀ (i : Instr) (r : Reg) (mask val : Word) (s : State),
    rmwOf i = some (r, mask, val) → s.quantum = 0 →
    (s.Accepts → exec i s =
      .next (s.setSeq (.inOp i 2 { Tmp.zero with word := s.regRead r }))) ∧
    (∀ t, s.ctx ≠ .interrupt → s.seq = .inOp i 2 t →
      exec i s =
        .next ((s.regWrite r ((t.word &&& ~~~mask) ||| (val &&& mask))).setSeq (.inOp i 3 t)))) ∧
  (∀ (pin : BitVec 8) (s : State),
    (s.Accepts → s.quantum = 0 → exec (.stop pin) s = comesTo (.stop pin) 2 Tmp.zero s) ∧
    (∀ k tmp, s.StandsAt (.stop pin) k tmp →
      (k = 2 → exec (.stop pin) s = comesTo (.stop pin) 3
        { tmp with word := s.regRead (.csr (channelOf pin)) } s) ∧
      (k = 3 → exec (.stop pin) s = comesTo (.stop pin) 4 tmp
        (s.regWrite (.csr (channelOf pin)) (tmp.word &&& ~~~0x01#32))) ∧
      (k = 4 → exec (.stop pin) s = .next (s.respond (.ok 0)))))

/-! ### Pin mapping (40_pin_mapping.md) -/

/-- R91 (D31): the channel in bits 2:0 and the sub-pin in bit 8 of the value. -/
def Obligations.MapPinAnswersChannelAndSubPin : Prop :=
  ∀ (pin : BitVec 8) (s : State), s.Accepts → 1 ≤ s.quantum →
    ∃ t, exec (.mapPin pin) s = .next t ∧
      Finished s t (.ok (BitVec.ofNat 48 (pin.toNat / 2 % 8 + 256 * (pin.toNat % 2)))) ∧
      KeepsBank s t ∧ KeepsSurroundings s t

/-- R92 (D26, D31): the lowest pin ordinal of the pair, and the mapping takes it back to the pair. -/
def Obligations.PinOfAnswersTheLowestPin : Prop :=
  ∀ (c : ChannelId) (sp : SubPin) (s : State), s.Accepts → 1 ≤ s.quantum →
    ∃ (t : State) (p : BitVec 8), exec (.pinOf c sp) s = .next t ∧
      Finished s t (.ok (p.setWidth 48)) ∧ p.toNat = 2 * c.val + (if sp = .A then 0 else 1) ∧
      channelOf p = c ∧ subPinOf p = sp ∧
      (∀ q : BitVec 8, channelOf q = c → subPinOf q = sp → p.toNat ≤ q.toNat) ∧
      KeepsBank s t ∧ KeepsSurroundings s t

/-- R93: pins that differ by a multiple of 16 map to the same channel and sub-pin, so `map_pin`, `start`
and `stop` on the one do exactly what they do on the other. -/
def Obligations.PinsSixteenApartAreOnePin : Prop :=
  ∀ (p q : BitVec 8) (k : Nat), q.toNat = p.toNat + 16 * k →
    channelOf q = channelOf p ∧ subPinOf q = subPinOf p ∧
    ∀ s : State, s.Accepts → 11 ≤ s.quantum →
      exec (.mapPin q) s = exec (.mapPin p) s ∧ exec (.stop q) s = exec (.stop p) s ∧
      ∀ freq duty, exec (.start q freq duty) s = exec (.start p freq duty) s

/-! ### Configuration (41_config_setters.md) -/

/-- R101 to R104: each of the four setters of `CSR` writes its own field and no other bit of `CSR`, and
nothing else; `PH_RET` and `PH_ADV` stay as they were, since no other agent steps in the turn. -/
def Obligations.ControlSettersWriteTheirField : Prop :=
  ∀ (c : ChannelId) (s : State), s.Accepts → 2 ≤ s.quantum →
    (∀ en, ∃ t, exec (.setEnabled c en) s = .next t ∧ (t.chan c).en = en ∧
      (∀ k, k ≠ 0 → (t.chan c).csr.getLsbD k = (s.chan c).csr.getLsbD k) ∧
      OnlyCsr (s.chan c) (t.chan c) ∧ KeepsOtherChannels c s t ∧ KeepsInterrupts s t ∧
      KeepsSurroundings s t ∧ Finished s t (.ok 0)) ∧
    (∀ ph, ∃ t, exec (.setPhCorrect c ph) s = .next t ∧ (t.chan c).phCorrect = ph ∧
      (∀ k, k ≠ 1 → (t.chan c).csr.getLsbD k = (s.chan c).csr.getLsbD k) ∧
      OnlyCsr (s.chan c) (t.chan c) ∧ KeepsOtherChannels c s t ∧ KeepsInterrupts s t ∧
      KeepsSurroundings s t ∧ Finished s t (.ok 0)) ∧
    (∀ invA invB, ∃ t, exec (.setInvert c invA invB) s = .next t ∧
      (t.chan c).aInv = invA ∧ (t.chan c).bInv = invB ∧
      (∀ k, k ≠ 2 → k ≠ 3 → (t.chan c).csr.getLsbD k = (s.chan c).csr.getLsbD k) ∧
      OnlyCsr (s.chan c) (t.chan c) ∧ KeepsOtherChannels c s t ∧ KeepsInterrupts s t ∧
      KeepsSurroundings s t ∧ Finished s t (.ok 0)) ∧
    (∀ mode, ∃ t, exec (.setDivMode c mode) s = .next t ∧ (t.chan c).divMode = mode ∧
      (∀ k, k ≠ 4 → k ≠ 5 → (t.chan c).csr.getLsbD k = (s.chan c).csr.getLsbD k) ∧
      OnlyCsr (s.chan c) (t.chan c) ∧ KeepsOtherChannels c s t ∧ KeepsInterrupts s t ∧
      KeepsSurroundings s t ∧ Finished s t (.ok 0))

/-- R105: a well-formed divider is written whole; a malformed one, integer part 0 or fraction above 15,
is silently ignored, and both respond `OK`. -/
def Obligations.SetDividerWritesOrIgnores : Prop :=
  ∀ (c : ChannelId) (divInt divFrac : BitVec 8) (s : State), s.Accepts → 2 ≤ s.quantum →
    ∃ t, exec (.setDivider c divInt divFrac) s = .next t ∧ Finished s t (.ok 0) ∧
      KeepsOtherChannels c s t ∧ KeepsInterrupts s t ∧ KeepsSurroundings s t ∧
      (divInt ≠ 0 → divFrac.toNat ≤ 15 →
        (t.chan c).divInt = divInt ∧ (t.chan c).divFrac = divFrac.setWidth 4 ∧
        OnlyDiv (s.chan c) (t.chan c)) ∧
      (divInt = 0 ∨ 15 < divFrac.toNat → t.chan c = s.chan c)

/-- R106 to R108: each compare setter writes its own half of `CC` and keeps the other; `set_top` writes
`TOP`; any 16-bit value is accepted, and nothing else changes. -/
def Obligations.CompareAndTopSettersWriteTheirValue : Prop :=
  ∀ (c : ChannelId) (value : BitVec 16) (s : State), s.Accepts → 2 ≤ s.quantum →
    (∃ t, exec (.setCompareA c value) s = .next t ∧ (t.chan c).ccA = value ∧
      (t.chan c).ccB = (s.chan c).ccB ∧ OnlyCc (s.chan c) (t.chan c) ∧
      KeepsOtherChannels c s t ∧ KeepsInterrupts s t ∧ KeepsSurroundings s t ∧
      Finished s t (.ok 0)) ∧
    (∃ t, exec (.setCompareB c value) s = .next t ∧ (t.chan c).ccB = value ∧
      (t.chan c).ccA = (s.chan c).ccA ∧ OnlyCc (s.chan c) (t.chan c) ∧
      KeepsOtherChannels c s t ∧ KeepsInterrupts s t ∧ KeepsSurroundings s t ∧
      Finished s t (.ok 0)) ∧
    (∃ t, exec (.setTop c value) s = .next t ∧ (t.chan c).top = value ∧
      OnlyTop (s.chan c) (t.chan c) ∧ KeepsOtherChannels c s t ∧ KeepsInterrupts s t ∧
      KeepsSurroundings s t ∧ Finished s t (.ok 0))

/-- R109: `configure` applies all ten fields of the snapshot and never fails; with a malformed divider
`DIV` keeps its prior value. The counter, the requests and the interrupt registers are not touched. In
turns of one micro-step each place writes one register or none, in the order mode bits, `TOP`, `DIV`,
`CC`, and last `EN`, each field of a shared register from the word as it was read. That order of the
eight setters is D14 (R48 gives it for `start`), and the numbers of the places are the model's reading
(notes/assumptions/17.md, DEDUCED). The clause on an accepting turn, which comes to place 2, rests on two
more: the turn that accepts a command runs its micro-step 1 (16.md, DEDUCED, unsafe), and `tmp` is all
zero but for the word read (25.md, DEDUCED). -/
def Obligations.ConfigureAppliesTheSnapshot : Prop :=
  ∀ (c : ChannelId) (snap : Snapshot) (s : State),
    (s.Accepts → 15 ≤ s.quantum →
      ∃ t, exec (.configure c snap) s = .next t ∧
        (t.chan c).en = snap.en ∧ (t.chan c).phCorrect = snap.phCorrect ∧
        (t.chan c).aInv = snap.invA ∧ (t.chan c).bInv = snap.invB ∧
        (t.chan c).divMode = snap.divMode ∧ (t.chan c).top = snap.top ∧
        (t.chan c).ccA = snap.ccA ∧ (t.chan c).ccB = snap.ccB ∧
        (snap.divInt ≠ 0 → snap.divFrac.toNat ≤ 15 →
          (t.chan c).divInt = snap.divInt ∧ (t.chan c).divFrac = snap.divFrac.setWidth 4) ∧
        (snap.divInt = 0 ∨ 15 < snap.divFrac.toNat → (t.chan c).div = (s.chan c).div) ∧
        KeepsRequests (s.chan c) (t.chan c) ∧ OnlyConfiguration (s.chan c) (t.chan c) ∧
        KeepsOtherChannels c s t ∧ KeepsInterrupts s t ∧ KeepsSurroundings s t ∧
        Finished s t (.ok 0)) ∧
    (s.Accepts → s.quantum = 0 →
      exec (.configure c snap) s =
        comesTo (.configure c snap) 2 { Tmp.zero with word := s.regRead (.csr c) } s) ∧
    (∀ k tmp, s.StandsAt (.configure c snap) k tmp →
      (k = 3 ∨ k = 5 ∨ k = 14 → exec (.configure c snap) s =
        comesTo (.configure c snap) (k + 1) { tmp with word := s.regRead (.csr c) } s) ∧
      (k = 2 → exec (.configure c snap) s = comesTo (.configure c snap) 3 tmp
        (s.regWrite (.csr c) ((tmp.word &&& ~~~0x02#32) ||| (if snap.phCorrect then 0x02#32 else 0)))) ∧
      (k = 4 → exec (.configure c snap) s = comesTo (.configure c snap) 5 tmp
        (s.regWrite (.csr c) ((tmp.word &&& ~~~0x0C#32) |||
          ((if snap.invA then 0x04#32 else 0) ||| (if snap.invB then 0x08#32 else 0))))) ∧
      (k = 6 → exec (.configure c snap) s = comesTo (.configure c snap) 7 tmp
        (s.regWrite (.csr c)
          ((tmp.word &&& ~~~0x30#32) ||| BitVec.ofNat 32 (16 * snap.divMode.toNat)))) ∧
      (k = 7 → exec (.configure c snap) s =
        comesTo (.configure c snap) 8 tmp (s.regWrite (.top c) (snap.top.setWidth 32))) ∧
      (k = 8 → snap.divInt ≠ 0 → snap.divFrac.toNat ≤ 15 → exec (.configure c snap) s =
        comesTo (.configure c snap) 9 tmp s) ∧
      (k = 8 → snap.divInt = 0 ∨ 15 < snap.divFrac.toNat → exec (.configure c snap) s =
        comesTo (.configure c snap) 10 tmp s) ∧
      (k = 9 → exec (.configure c snap) s = comesTo (.configure c snap) 10 tmp
        (s.regWrite (.div c) ((snap.divInt.setWidth 32 <<< 4) ||| snap.divFrac.setWidth 32))) ∧
      (k = 10 ∨ k = 12 → exec (.configure c snap) s =
        comesTo (.configure c snap) (k + 1) { tmp with word := s.regRead (.cc c) } s) ∧
      (k = 11 → exec (.configure c snap) s = comesTo (.configure c snap) 12 tmp
        (s.regWrite (.cc c) ((tmp.word &&& 0xFFFF0000#32) ||| snap.ccA.setWidth 32))) ∧
      (k = 13 → exec (.configure c snap) s = comesTo (.configure c snap) 14 tmp
        (s.regWrite (.cc c) ((tmp.word &&& 0x0000FFFF#32) ||| (snap.ccB.setWidth 32 <<< 16)))) ∧
      (k = 15 → exec (.configure c snap) s = comesTo (.configure c snap) 16 tmp
        (s.regWrite (.csr c) ((tmp.word &&& ~~~0x01#32) ||| (if snap.en then 0x01#32 else 0)))) ∧
      (k = 16 → exec (.configure c snap) s = .next (s.respond (.ok 0))))

/-- R10, R31, R110 and the operations' "state written": in every turn, however short and from wherever
the sequencer stands, an operation that writes a channel's registers touches only the channel it names,
there neither the counter (but for `set_counter`, which touches nothing else there) nor the hidden
state, and no interrupt register, handler slot, log of calls or input. That `set_counter` leaves the model's
own field `disturbed` too, which the equation of its channel says with the rest, is the model's choice for a
write of `CTR` (notes/assumptions/12.md, DESIGN CHOICE, unsafe there). -/
def Obligations.ChannelOperationsTouchTheirChannelAlone : Prop :=
  ∀ (i : Instr) (c : ChannelId) (s t : State), writesChannel i = some c → exec i s = .next t →
    KeepsOtherChannels c s t ∧ KeepsInterrupts s t ∧ t.handler = s.handler ∧
    t.firedLog = s.firedLog ∧ t.sysClkHz = s.sysClkHz ∧ t.port = s.port ∧ t.schedule = s.schedule ∧
    ((∀ value, i ≠ .setCounter c value) → OnlyConfiguration (s.chan c) (t.chan c)) ∧
    (∀ value, i = .setCounter c value → t.chan c = { s.chan c with ctr := (t.chan c).ctr })

/-! ### Planner (42_planner.md) -/

/-- R122 (D3, D4 and, for the faults, D5, D7): the result of `solve_top_divider` on every frequency and
clock, and that it writes no register. -/
def Obligations.SolveTopDividerAnswers : Prop :=
  ∀ (freq : BitVec 32) (s : State), s.Accepts → 6 ≤ s.quantum →
    ∃ t, exec (.solveTopDivider freq) s = .next t ∧ KeepsBank s t ∧ t.handler = s.handler ∧
      (freq = 0 → t.faultLog = s.faultLog ++ [.preconditionViolated .frequencyZero]) ∧
      (freq ≠ 0 → (s.sysClkHz = none ∨ s.sysClkHz = some 0) →
        t.faultLog = s.faultLog ++ [.clockAbsent]) ∧
      (∀ sys : BitVec 32, s.sysClkHz = some sys → sys ≠ 0 → freq ≠ 0 →
        (sys.toNat < freq.toNat →
          t.faultLog = s.faultLog ++ [.preconditionViolated .frequencyAboveClock]) ∧
        (freq.toNat ≤ sys.toNat → sys.toNat / 65536 < freq.toNat →
          Finished s t (.ok (BitVec.ofNat 48 (sys.toNat / freq.toNat - 1 + 1 * 2 ^ 16)))) ∧
        (freq.toNat ≤ sys.toNat / 65536 → 256 * freq.toNat ≤ sys.toNat / 65536 →
          Finished s t (.inval .unsupportedDivider)) ∧
        (freq.toNat ≤ sys.toNat / 65536 → sys.toNat / 65536 < 256 * freq.toNat →
          Finished s t (.ok (BitVec.ofNat 48 (65535 + sys.toNat / 65536 / freq.toNat * 2 ^ 16 +
            16 * (sys.toNat / 65536 % freq.toNat) / freq.toNat * 2 ^ 24)))))

/-- R123, R126: every plan fits its fields and is exact. The no-divider branch gives the floor quotient,
at most 65534, and divider `(1, 0)`; the divider branch gives top 65535 and a divider of at least 1 that
lies within one sixteenth below the exact quotient; there is no plan exactly where the quotient is 256
or more. -/
def Obligations.PlansFitAndAreExact : Prop :=
  ∀ sys freq : Nat, 1 ≤ freq → freq ≤ sys → sys < 2 ^ 32 →
    (sys / 65536 < freq → ∃ p, solveTopDivider sys freq = some p ∧ p.top.toNat + 1 = sys / freq ∧
      p.top.toNat ≤ 65534 ∧ p.divInt = 1 ∧ p.divFrac = 0) ∧
    (freq ≤ sys / 65536 → sys / 65536 < 256 * freq → ∃ p, solveTopDivider sys freq = some p ∧
      p.top = 65535 ∧ 1 ≤ p.divInt.toNat ∧
      (16 * p.divInt.toNat + p.divFrac.toNat) * freq ≤ 16 * (sys / 65536) ∧
      16 * (sys / 65536) < (16 * p.divInt.toNat + p.divFrac.toNat + 1) * freq) ∧
    (solveTopDivider sys freq = none ↔ 256 * freq ≤ sys / 65536)

/-- R124: the result of `solve_compare` on every top and duty cycle, exact in natural numbers; it does not
depend on the clock and writes no register. -/
def Obligations.SolveCompareAnswers : Prop :=
  ∀ (top : BitVec 16) (duty : BitVec 32) (s : State), s.Accepts → 2 ≤ s.quantum →
    ∃ t, exec (.solveCompare top duty) s = .next t ∧ KeepsBank s t ∧ t.handler = s.handler ∧
      (65536 < duty.toNat →
        t.faultLog = s.faultLog ++ [.preconditionViolated .dutyAboveFullScale] ∧
        t.responses = s.responses) ∧
      (duty.toNat = 65536 → top = 65535 → Finished s t (.inval .unrepresentableFullDuty)) ∧
      (duty.toNat = 65536 → top ≠ 65535 →
        Finished s t (.ok (BitVec.ofNat 48 (top.toNat + 1)))) ∧
      (duty.toNat < 65536 → (top.toNat + 1) * duty.toNat / 65536 < 65536 ∧
        Finished s t (.ok (BitVec.ofNat 48 ((top.toNat + 1) * duty.toNat / 65536))))

/-- R122, R124: the two operations that only compute, and those that only read, change no register, no
handler slot and no log of calls, in every turn from wherever the sequencer stands (20_memory.md R44:
no register has a read side effect). -/
def Obligations.ObservingOperationsChangeNoRegister : Prop :=
  ∀ (i : Instr) (s t : State), observes i = true → exec i s = .next t →
    KeepsBank s t ∧ t.handler = s.handler ∧ t.firedLog = s.firedLog ∧ t.sysClkHz = s.sysClkHz ∧
    t.port = s.port ∧ t.schedule = s.schedule

/-! ### Channel controller (43_channel_controller.md) -/

/-- R140 (D16): on a plan and a compare value `start` programs top, divider and the sub-pin's compare
value, enables the channel, and leaves the other compare value, the mode bits, the requests, the
counter and everything else as they were. In turns of one micro-step its micro-steps are those of R140,
so the writes come in the fixed order of R48, top, divider, compare, enable, whatever other agents do
between them; a planner step that fails ends it where it stands. The clause on an accepting turn, which
comes to place 2, rests on two readings of the model: the turn that accepts a command runs its micro-step 1
(notes/assumptions/16.md, DEDUCED, unsafe), and `tmp` is all zero before anything is read (25.md,
DEDUCED). -/
def Obligations.StartProgramsAndEnablesTheChannel : Prop :=
  ∀ (pin : BitVec 8) (freq duty : BitVec 32) (s : State),
    (∀ (sys : BitVec 32) (p : Plan) (m : BitVec 16),
      s.Accepts → 11 ≤ s.quantum → s.sysClkHz = some sys → sys ≠ 0 → freq ≠ 0 →
      freq.toNat ≤ sys.toNat → duty.toNat ≤ 65536 →
      solveTopDivider sys.toNat freq.toNat = some p → solveCompare p.top duty = some m →
      ∃ t, exec (.start pin freq duty) s = .next t ∧ Finished s t (.ok 0) ∧
        (t.chan (channelOf pin)).top = p.top ∧ (t.chan (channelOf pin)).divInt = p.divInt ∧
        (t.chan (channelOf pin)).divFrac = p.divFrac ∧
        (t.chan (channelOf pin)).ccA =
          (if pin.toNat % 2 = 0 then m else (s.chan (channelOf pin)).ccA) ∧
        (t.chan (channelOf pin)).ccB =
          (if pin.toNat % 2 = 0 then (s.chan (channelOf pin)).ccB else m) ∧
        (t.chan (channelOf pin)).en = true ∧
        (∀ k, k ≠ 0 →
          (t.chan (channelOf pin)).csr.getLsbD k = (s.chan (channelOf pin)).csr.getLsbD k) ∧
        OnlyConfiguration (s.chan (channelOf pin)) (t.chan (channelOf pin)) ∧
        KeepsOtherChannels (channelOf pin) s t ∧ KeepsInterrupts s t ∧ KeepsSurroundings s t) ∧
    (s.Accepts → s.quantum = 0 →
      exec (.start pin freq duty) s = comesTo (.start pin freq duty) 2 Tmp.zero s) ∧
    (∀ k tmp, s.StandsAt (.start pin freq duty) k tmp →
      (k = 2 → freq ≠ 0 → duty.toNat ≤ 65536 → exec (.start pin freq duty) s =
        comesTo (.start pin freq duty) 3 tmp s) ∧
      (∀ sys, k = 3 → s.sysClkHz = some sys → sys ≠ 0 → freq.toNat ≤ sys.toNat →
        exec (.start pin freq duty) s =
          comesTo (.start pin freq duty) 4 { tmp with sys := sys } s) ∧
      (∀ p, k = 4 → solveTopDivider tmp.sys.toNat freq.toNat = some p →
        exec (.start pin freq duty) s = comesTo (.start pin freq duty) 5
          { tmp with top := p.top, divInt := p.divInt, divFrac := p.divFrac } s) ∧
      (k = 4 → solveTopDivider tmp.sys.toNat freq.toNat = none →
        exec (.start pin freq duty) s = .next (s.respond (.inval .unsupportedDivider))) ∧
      (k = 5 → exec (.start pin freq duty) s = comesTo (.start pin freq duty) 6 tmp
        (s.regWrite (.top (channelOf pin)) (tmp.top.setWidth 32))) ∧
      (k = 6 → exec (.start pin freq duty) s = comesTo (.start pin freq duty) 7 tmp
        (s.regWrite (.div (channelOf pin))
          ((tmp.divInt.setWidth 32 <<< 4) ||| tmp.divFrac.setWidth 32))) ∧
      (∀ m, k = 7 → solveCompare tmp.top duty = some m → exec (.start pin freq duty) s =
        comesTo (.start pin freq duty) 8 { tmp with compare := m } s) ∧
      (k = 7 → solveCompare tmp.top duty = none → exec (.start pin freq duty) s =
        .next (s.respond (.inval .unrepresentableFullDuty))) ∧
      (k = 8 → exec (.start pin freq duty) s = comesTo (.start pin freq duty) 9
        { tmp with word := s.regRead (.cc (channelOf pin)) } s) ∧
      (k = 9 → exec (.start pin freq duty) s = comesTo (.start pin freq duty) 10 tmp
        (s.regWrite (.cc (channelOf pin))
          (if pin.toNat % 2 = 0 then (tmp.word &&& 0xFFFF0000#32) ||| tmp.compare.setWidth 32
          else (tmp.word &&& 0x0000FFFF#32) ||| (tmp.compare.setWidth 32 <<< 16)))) ∧
      (k = 10 → exec (.start pin freq duty) s = comesTo (.start pin freq duty) 11
        { tmp with word := s.regRead (.csr (channelOf pin)) } s) ∧
      (k = 11 → exec (.start pin freq duty) s = comesTo (.start pin freq duty) 12 tmp
        (s.regWrite (.csr (channelOf pin)) (tmp.word ||| 0x01#32))) ∧
      (k = 12 → exec (.start pin freq duty) s = .next (s.respond (.ok 0))))

/-- R245, R140: a failed `start` is not atomic. With cause Unrepresentable-Full-Duty `TOP` holds 65535 and
`DIV` the new divider while `CC` and `CSR` are as before, so a running channel keeps running; with cause
Unsupported-Divider nothing has changed. That `TOP` and `DIV` definitely, and not possibly, hold the new
values after the full-duty failure is the spec's own decision D16, which the model follows
(notes/assumptions/19.md, DEDUCED). -/
def Obligations.FailedStartIsNotRolledBack : Prop :=
  ∀ (pin : BitVec 8) (freq duty sys : BitVec 32) (s : State),
    s.Accepts → 11 ≤ s.quantum → s.sysClkHz = some sys → sys ≠ 0 → freq ≠ 0 →
    freq.toNat ≤ sys.toNat → duty.toNat ≤ 65536 →
    (solveTopDivider sys.toNat freq.toNat = none →
      ∃ t, exec (.start pin freq duty) s = .next t ∧ Finished s t (.inval .unsupportedDivider) ∧
        KeepsBank s t ∧ KeepsSurroundings s t) ∧
    (∀ p, solveTopDivider sys.toNat freq.toNat = some p → solveCompare p.top duty = none →
      ∃ t, exec (.start pin freq duty) s = .next t ∧
        Finished s t (.inval .unrepresentableFullDuty) ∧
        (t.chan (channelOf pin)).top = 65535 ∧ (t.chan (channelOf pin)).divInt = p.divInt ∧
        (t.chan (channelOf pin)).divFrac = p.divFrac ∧
        (t.chan (channelOf pin)).cc = (s.chan (channelOf pin)).cc ∧
        (t.chan (channelOf pin)).csr = (s.chan (channelOf pin)).csr ∧
        OnlyConfiguration (s.chan (channelOf pin)) (t.chan (channelOf pin)) ∧
        KeepsOtherChannels (channelOf pin) s t ∧ KeepsInterrupts s t ∧ KeepsSurroundings s t)

/-- R127, R213 (D5, D6, D7): where several preconditions of `start` are broken the first in its order is
the fault, and no register is written. -/
def Obligations.StartReportsTheFirstBrokenPrecondition : Prop :=
  ∀ (pin : BitVec 8) (freq duty : BitVec 32) (s : State), s.Accepts → 11 ≤ s.quantum →
    ∃ t, exec (.start pin freq duty) s = .next t ∧
      (freq = 0 → t.faultLog = s.faultLog ++ [.preconditionViolated .frequencyZero] ∧ KeepsBank s t) ∧
      (freq ≠ 0 → 65536 < duty.toNat →
        t.faultLog = s.faultLog ++ [.preconditionViolated .dutyAboveFullScale] ∧ KeepsBank s t) ∧
      (freq ≠ 0 → duty.toNat ≤ 65536 → (s.sysClkHz = none ∨ s.sysClkHz = some 0) →
        t.faultLog = s.faultLog ++ [.clockAbsent] ∧ KeepsBank s t) ∧
      (∀ sys : BitVec 32, freq ≠ 0 → duty.toNat ≤ 65536 → s.sysClkHz = some sys → sys ≠ 0 →
        sys.toNat < freq.toNat →
        t.faultLog = s.faultLog ++ [.preconditionViolated .frequencyAboveClock] ∧ KeepsBank s t)

/-- R50, R227 (D37): the clock is sampled once; from step 4 of `start` on a change of the clock changes
nothing of what the operation does. -/
def Obligations.StartKeepsTheClockItSampled : Prop :=
  ∀ (pin : BitVec 8) (freq duty : BitVec 32) (k : Nat) (tmp : Tmp) (hz : Option (BitVec 32))
    (s t : State), s.ctx ≠ .interrupt → s.seq = .inOp (.start pin freq duty) k tmp → 4 ≤ k →
    exec (.start pin freq duty) s = .next t →
    exec (.start pin freq duty) { s with sysClkHz := hz } = .next { t with sysClkHz := hz }

/-- R141: `stop` disables the pin's channel, the same for both of its sub-pins, keeps every other bit and
register, and on a stopped channel changes nothing: not the model's own field `disturbed` either, as R141's
"no observable effect" asks. -/
def Obligations.StopDisablesTheWholeChannel : Prop :=
  ∀ (pin : BitVec 8) (s : State), s.Accepts → 3 ≤ s.quantum →
    ∃ t, exec (.stop pin) s = .next t ∧ Finished s t (.ok 0) ∧
      (t.chan (channelOf pin)).en = false ∧
      (∀ k, k ≠ 0 →
        (t.chan (channelOf pin)).csr.getLsbD k = (s.chan (channelOf pin)).csr.getLsbD k) ∧
      OnlyCsr (s.chan (channelOf pin)) (t.chan (channelOf pin)) ∧
      KeepsOtherChannels (channelOf pin) s t ∧ KeepsInterrupts s t ∧ KeepsSurroundings s t ∧
      (s.stopped (channelOf pin) = true → KeepsBank s t) ∧
      (∀ other : BitVec 8, channelOf other = channelOf pin → exec (.stop other) s = .next t)

/-- R142, R143: a phase operation sets its request bit, keeping the rest of `CSR`, and comes to its poll;
the poll that reads the bit clear ends the operation with `OK`, and changes no register; the poll that
reads it set goes back to step 3, on a running channel as on a stopped one and however long the turn is,
with no response and nothing changed. In turns of one micro-step the places 2 to 5 are the steps 2 to 5 of
R142 and R143. That an accepting turn whose length is two micro-steps stands before step 3 rests on the
model's reading that such a turn runs micro-step 1 (notes/assumptions/16.md, DEDUCED, unsafe). -/
def Obligations.PhaseOperationsRequestAndPoll : Prop :=
  ∀ (c : ChannelId) (s : State), s.ctx ≠ .interrupt →
    (s.seq = .idle → s.quantum = 1 →
      (∃ t tmp, exec (.advancePhase c) s = .next t ∧ (t.chan c).phAdv = true ∧
        (∀ k, k ≠ 7 → (t.chan c).csr.getLsbD k = (s.chan c).csr.getLsbD k) ∧
        OnlyCsr (s.chan c) (t.chan c) ∧ KeepsOtherChannels c s t ∧ KeepsInterrupts s t ∧
        t.seq = .inOp (.advancePhase c) 3 tmp ∧ t.responses = s.responses) ∧
      (∃ t tmp, exec (.retardPhase c) s = .next t ∧ (t.chan c).phRet = true ∧
        (∀ k, k ≠ 6 → (t.chan c).csr.getLsbD k = (s.chan c).csr.getLsbD k) ∧
        OnlyCsr (s.chan c) (t.chan c) ∧ KeepsOtherChannels c s t ∧ KeepsInterrupts s t ∧
        t.seq = .inOp (.retardPhase c) 3 tmp ∧ t.responses = s.responses)) ∧
    (∀ tmp, 2 ≤ s.quantum →
      (s.seq = .inOp (.advancePhase c) 3 tmp → (s.chan c).phAdv = false →
        ∃ t, exec (.advancePhase c) s = .next t ∧ Finished s t (.ok 0) ∧ KeepsBank s t) ∧
      (s.seq = .inOp (.retardPhase c) 3 tmp → (s.chan c).phRet = false →
        ∃ t, exec (.retardPhase c) s = .next t ∧ Finished s t (.ok 0) ∧ KeepsBank s t)) ∧
    (∀ (i : Instr) (bit : Nat),
      (i = .advancePhase c ∧ bit = 7) ∨ (i = .retardPhase c ∧ bit = 6) →
      (∀ k tmp, s.seq = .inOp i k tmp → (k = 3 ∨ (k = 4 ∧ tmp.word.getLsbD bit = true)) →
        (s.chan c).csr.getLsbD bit = true →
        ∃ (t : State) (j : Nat) (u : Tmp), exec i s = .next t ∧ t.seq = .inOp i j u ∧
          (j = 3 ∨ (j = 4 ∧ u.word.getLsbD bit = true)) ∧
          t.responses = s.responses ∧ KeepsBank s t ∧ KeepsSurroundings s t) ∧
      (∀ k tmp, s.StandsAt i k tmp →
        (k = 2 → exec i s =
          comesTo i 3 tmp (s.regWrite (.csr c) (tmp.word ||| (1#32 <<< bit)))) ∧
        (k = 3 → exec i s = comesTo i 4 { tmp with word := s.regRead (.csr c) } s) ∧
        (k = 4 → tmp.word.getLsbD bit = true → exec i s = comesTo i 3 tmp s) ∧
        (k = 4 → tmp.word.getLsbD bit = false → exec i s = comesTo i 5 tmp s) ∧
        (k = 5 → exec i s = .next (s.respond (.ok 0)))))

/-- R243, R244: a handshake whose acknowledgement is not enabled never ends. While the foreground polls
with the request bit set, and the channel is stopped (or, for an advance, its divider is `(1, 0)`), every
step of the CPU, of the timer array, of a pin and of the clock leaves it so, and no response comes; only a
dispatch can change it. -/
def Obligations.UnacknowledgedHandshakeNeverEnds : Prop :=
  ∀ (c : ChannelId) (s : State), (∀ rest, s.schedule ≠ .event .takeIrq :: rest) →
    (s.StuckInAdvance c →
      ∃ t, step s = .next t ∧ t.StuckInAdvance c ∧ t.responses = s.responses) ∧
    (s.StuckInRetard c →
      ∃ t, step s = .next t ∧ t.StuckInRetard c ∧ t.responses = s.responses)

/-- R190, R196, R197 (D34, C7): "bounded by hardware response time". In every infinite run in which the
timer array and the CPU are fair, no interrupt is taken, and from some point on the channel is enabled and
driven by the hardware alone (free-running, or gated with its pin high), a retard that polls comes to its
end, and so does an advance where from some point on the divider is above 1 as well: the foreground becomes
idle, at a point where the request bit is clear. The fairness of the timer array is the spec's; that of
the CPU, `CpuFair`, is the model's own premise (notes/assumptions/28.md, DESIGN CHOICE). -/
def Obligations.PhaseOperationsEndInEveryFairRun : Prop :=
  ∀ (turns : Nat → Turn) (run : Nat → State) (c : ChannelId),
    IsRun turns run → TimerFair turns run → CpuFair turns →
    (∀ n, turns n ≠ .event .takeIrq) → (run 0).seqIrq = .idle →
    (∃ n, ∀ m, n ≤ m → ((run m).chan c).en = true ∧ ((run m).chan c).SelfDriven) →
    ((run 0).Polls (.retardPhase c) retardPending →
      ∃ n, (run n).seqFg = .idle ∧ ((run n).chan c).phRet = false) ∧
    ((run 0).Polls (.advancePhase c) advancePending →
      (∃ n, ∀ m, n ≤ m → 16 < ((run m).chan c).dividerValue16) →
      ∃ n, (run n).seqFg = .idle ∧ ((run n).chan c).phAdv = false)

/-- R144, R145: `get_counter` answers the counter as it stands and changes nothing; `set_counter` writes
the counter, above `TOP` or not, on a running and on a stopped channel, latches nothing and leaves the
direction. That it leaves the model's own field `disturbed` too, which the equation of its channel says with
the rest, is the model's choice for a write of `CTR` (notes/assumptions/12.md, DESIGN CHOICE, unsafe
there). -/
def Obligations.CounterIsReadAndWrittenRaw : Prop :=
  ∀ (c : ChannelId) (s : State), s.Accepts → 1 ≤ s.quantum →
    (∃ t, exec (.getCounter c) s = .next t ∧ Finished s t (.ok ((s.chan c).ctr.setWidth 48)) ∧
      KeepsBank s t ∧ KeepsSurroundings s t) ∧
    (∀ value, ∃ t, exec (.setCounter c value) s = .next t ∧ Finished s t (.ok 0) ∧
      t.chan c = { s.chan c with ctr := value } ∧ KeepsOtherChannels c s t ∧ KeepsInterrupts s t ∧
      KeepsSurroundings s t)

/-- R146 (D13): `mask_enable` enables every channel of the mask and disables none; no other bit of any `CSR`
and no other register changes. It does so in one register write: in turns of one micro-step its step 1
reads `EN`, its step 2 writes `EN` once, by which every channel of the mask is enabled in the same
micro-step and every other one is as `EN` was read, and its step 3 is the response. Two things here are the
model's: that an accepting turn runs step 1 (notes/assumptions/16.md, DEDUCED, unsafe), and that a write of
`EN` leaves the model's own field `disturbed` of every channel, and so its outputs, as it was, which the
equation of the channels says with the rest (12.md, DESIGN CHOICE, unsafe there). -/
def Obligations.MaskEnableEnablesInOneWrite : Prop :=
  ∀ (bitmask : BitVec 8) (s : State),
    (s.Accepts → 2 ≤ s.quantum →
      ∃ t, exec (.maskEnable bitmask) s = .next t ∧ Finished s t (.ok 0) ∧
        (∀ c, (t.chan c).en = ((s.chan c).en || bitmask.getLsbD c.val)) ∧
        (∀ c k, k ≠ 0 → (t.chan c).csr.getLsbD k = (s.chan c).csr.getLsbD k) ∧
        (∀ c, t.chan c = { s.chan c with csr := (t.chan c).csr }) ∧
        KeepsInterrupts s t ∧ KeepsSurroundings s t) ∧
    (s.Accepts → s.quantum = 0 →
      ∃ tmp, tmp.word = s.regRead .en ∧
        exec (.maskEnable bitmask) s = comesTo (.maskEnable bitmask) 2 tmp s) ∧
    (∀ k tmp, s.StandsAt (.maskEnable bitmask) k tmp →
      (k = 2 → ∃ u, u = s.regWrite .en ((tmp.word.setWidth 8 ||| bitmask).setWidth 32) ∧
        exec (.maskEnable bitmask) s = comesTo (.maskEnable bitmask) 3 tmp u ∧
        ∀ c, (u.chan c).en = (tmp.word.getLsbD c.val || bitmask.getLsbD c.val)) ∧
      (k = 3 → exec (.maskEnable bitmask) s = .next (s.respond (.ok 0))))

/-- R148 (D31, D33): `read_reg` answers the register at its offset; an offset that names none is the
fault `IllegalCommand`. -/
def Obligations.ReadRegAnswersTheRegister : Prop :=
  ∀ (offset : BitVec 8) (s : State), s.Accepts → 1 ≤ s.quantum →
    (∀ r : Reg, r.offset = offset.toNat →
      ∃ t, exec (.readReg offset) s = .next t ∧ Finished s t (.ok ((s.regRead r).setWidth 48)) ∧
        KeepsBank s t ∧ KeepsSurroundings s t) ∧
    ((∀ r : Reg, r.offset ≠ offset.toNat) →
      ∃ t, exec (.readReg offset) s = .next t ∧ t.faultLog = s.faultLog ++ [.illegalCommand] ∧
        KeepsBank s t ∧ t.responses = s.responses)

/-! ### Interrupt operations and the dispatcher (44_interrupt_ops.md, 60_exceptions.md) -/

/-- R170, R171: `enable_interrupt` and `disable_interrupt` set and clear the channel's bit of the enable
mask and no other; `INTR` and `INTF` keep every bit, so a latched bit shows at once when its channel is
enabled, and a forced one stays pending when it is disabled. -/
def Obligations.EnableAndDisableWriteOneMaskBit : Prop :=
  ∀ (c : ChannelId) (s : State), s.Accepts → 2 ≤ s.quantum →
    (∃ t, exec (.enableInterrupt c) s = .next t ∧ Finished s t (.ok 0) ∧
      (∀ d : ChannelId, t.inte.getLsbD d.val = (d == c || s.inte.getLsbD d.val)) ∧
      t.intr = s.intr ∧ t.intf = s.intf ∧ KeepsChannels s t ∧ KeepsSurroundings s t ∧
      (s.intr.getLsbD c.val = true → t.pending c = true)) ∧
    (∃ t, exec (.disableInterrupt c) s = .next t ∧ Finished s t (.ok 0) ∧
      (∀ d : ChannelId, t.inte.getLsbD d.val = (d != c && s.inte.getLsbD d.val)) ∧
      t.intr = s.intr ∧ t.intf = s.intf ∧ KeepsChannels s t ∧ KeepsSurroundings s t ∧
      t.pending c = s.intf.getLsbD c.val)

/-- R172, R173 (D15, D31): `force_interrupt` and `unforce_interrupt` set and clear the channel's forced bit
and no other; a forced channel is pending whatever its enable bit is. -/
def Obligations.ForceAndUnforceWriteOneForcedBit : Prop :=
  ∀ (c : ChannelId) (s : State), s.Accepts → 2 ≤ s.quantum →
    (∃ t, exec (.forceInterrupt c) s = .next t ∧ Finished s t (.ok 0) ∧
      (∀ d : ChannelId, t.intf.getLsbD d.val = (d == c || s.intf.getLsbD d.val)) ∧
      t.intr = s.intr ∧ t.inte = s.inte ∧ KeepsChannels s t ∧ KeepsSurroundings s t ∧
      t.pending c = true ∧ t.irq = true) ∧
    (∃ t, exec (.unforceInterrupt c) s = .next t ∧ Finished s t (.ok 0) ∧
      (∀ d : ChannelId, t.intf.getLsbD d.val = (d != c && s.intf.getLsbD d.val)) ∧
      t.intr = s.intr ∧ t.inte = s.inte ∧ KeepsChannels s t ∧ KeepsSurroundings s t ∧
      t.pending c = (s.intr.getLsbD c.val && s.inte.getLsbD c.val))

/-- R174 (D31): `clear_interrupt` clears the channel's latch and no other bit; a forced channel stays
pending. -/
def Obligations.ClearInterruptClearsOneLatch : Prop :=
  ∀ (c : ChannelId) (s : State), s.Accepts → 1 ≤ s.quantum →
    ∃ t, exec (.clearInterrupt c) s = .next t ∧ Finished s t (.ok 0) ∧
      (∀ d : ChannelId, t.intr.getLsbD d.val = (d != c && s.intr.getLsbD d.val)) ∧
      t.inte = s.inte ∧ t.intf = s.intf ∧ KeepsChannels s t ∧ KeepsSurroundings s t ∧
      t.pending c = s.intf.getLsbD c.val

/-- R177: in every turn, however short and from wherever the sequencer stands, the five bit operations
touch no per-channel register, no handler slot, no log of calls, and each only its own register. -/
def Obligations.InterruptBitOperationsTouchOneRegister : Prop :=
  ∀ (i : Instr) (c : ChannelId) (s t : State), interruptBitOf i = some c → exec i s = .next t →
    KeepsChannels s t ∧ t.handler = s.handler ∧ t.firedLog = s.firedLog ∧
    t.sysClkHz = s.sysClkHz ∧ t.port = s.port ∧ t.schedule = s.schedule ∧
    (i ≠ .clearInterrupt c → t.intr = s.intr) ∧
    (i ≠ .enableInterrupt c → i ≠ .disableInterrupt c → t.inte = s.inte) ∧
    (i ≠ .forceInterrupt c → i ≠ .unforceInterrupt c → t.intf = s.intf)

/-- R175 (D32), R176 (D31): `set_handler` overwrites the slot, last writer wins; `get_int_status` answers
`(INTR & INTE) | INTF`. Neither changes a register, and nothing else changes around them. -/
def Obligations.HandlerIsSetAndStatusIsRead : Prop :=
  ∀ s : State, s.Accepts → 1 ≤ s.quantum →
    (∀ h : Handle, ∃ t, exec (.setHandler h) s = .next t ∧ Finished s t (.ok 0) ∧
      KeepsBank s t ∧ t.handler = some h ∧ KeepsSurroundings { s with handler := some h } t) ∧
    (∃ t, exec .getIntStatus s = .next t ∧
      Finished s t (.ok (((s.intr &&& s.inte) ||| s.intf).setWidth 48)) ∧
      KeepsBank s t ∧ KeepsSurroundings s t)

/-- R178, R218 (D17): with handlers that issue nothing, a dispatch presented by the foreground or entered
by `TakeIrq` notifies the registered handler once of each pending channel in ascending order, clears the
latch and the forced bit of exactly those channels, and touches nothing else; with no handler registered
it clears them all the same and notifies nobody.
(The zeros of `Dispatch.start`, where the dispatch stands once entered, are the model's:
notes/assumptions/29.md, DESIGN CHOICE.) -/
def Obligations.DispatchServesEveryPendingChannel : Prop :=
  ∀ s : State,
    ((s.seqIrq = .idle ∧ s.seqFg = .idle) ∨ s.seqIrq = .dispatch Dispatch.start) →
    s.HandlersSilent → 34 ≤ s.quantum →
    ∃ t, exec .handleInterrupt s = .next t ∧ Finished s t (.ok 0) ∧
      t.firedLog = s.firedLog ++
        (match s.handler with
          | none => []
          | some h => s.pendingChannels.map fun c => (h, c)) ∧
      t.intr = s.intr &&& ~~~s.ints ∧ t.intf = s.intf &&& ~~~s.ints ∧ t.inte = s.inte ∧
      KeepsChannels s t ∧ t.handler = s.handler ∧ t.faultLog = s.faultLog ∧ t.port = s.port ∧
      t.schedule = s.schedule ∧ t.sysClkHz = s.sysClkHz

/-- R220: `force_interrupt(c)` then `handle_interrupt()` results in exactly one `fired(c)` call and leaves
the status bit for `c` clear afterward. -/
def Obligations.ForcedInterruptIsHandledOnce : Prop :=
  ∀ (c : ChannelId) (h : Handle) (s : State), s.seqIrq = .idle → s.seqFg = .idle →
    s.handler = some h → s.HandlersSilent → 34 ≤ s.quantum →
    ∃ t u calls, exec (.forceInterrupt c) s = .next t ∧ exec .handleInterrupt t = .next u ∧
      u.firedLog = s.firedLog ++ calls ∧ calls.count (h, c) = 1 ∧
      (∀ x ∈ calls, x.1 = h) ∧ u.pending c = false

/-- R178, R218, R226 (D17, D18, D19): the dispatcher micro-step by micro-step, in the interrupt context and
by hand in the foreground. Step 1 takes one snapshot of the status and goes to its first channel. Step 2a
calls the handler registered at that moment, with nothing cleared yet: a handler that issues nothing and
returns, or no handler, leads to step 2b at once; any other works in its own sequencer until the response
of its last command returns to step 2b, and a handler with commands left, or one that never returns, stays
where it is. Steps 2b, 2c and 2d clear the latch of the channel alone, read the forced bits, and clear the
forced bit of the channel alone from the word read; step 2d leads to the next channel of the snapshot, in
ascending order, or to step 3, whose response ends the dispatch. How the handler's behaviour is given is
the model's (notes/assumptions/5.md, DEDUCED). -/
def Obligations.DispatcherNotifiesThenClearsThenUnforces : Prop :=
  ∀ (d : Dispatch) (s : State), s.currentDispatch = some d → s.quantum = 0 →
    (d.phase = .readStatus →
      (∀ c, IsFirstFrom s.ints 0 c → exec .handleInterrupt s =
        dispatchComesTo { d with snapshot := s.ints, chan := c, phase := .notify } s) ∧
      (NoneFrom s.ints 0 → exec .handleInterrupt s =
        dispatchComesTo { d with snapshot := s.ints, phase := .respond } s)) ∧
    (d.phase = .notify →
      (s.handler = none →
        exec .handleInterrupt s = dispatchComesTo { d with phase := .clearRaw } s) ∧
      (∀ h, s.handler = some h → s.handlerCall h d.chan = .silent →
        exec .handleInterrupt s = dispatchComesTo { d with phase := .clearRaw }
          { s with
            firedLog := s.firedLog ++ [(h, d.chan)], handlerScript := s.scriptAfterCall }) ∧
      (∀ h call, s.handler = some h → s.handlerCall h d.chan = call → call ≠ .silent →
        exec .handleInterrupt s = dispatchComesTo { d with phase := .handler }
          { s with
            firedLog := s.firedLog ++ [(h, d.chan)], handlerScript := s.scriptAfterCall
            handlerWords := call.words, handlerEnd := call.ending })) ∧
    (∀ h call rest, s.handlerBehaviour = .scripted → s.handlerScript = call :: rest →
      s.handlerCall h d.chan = call ∧ s.scriptAfterCall = rest) ∧
    (∀ h, s.handlerBehaviour = .parameter →
      s.handlerCall h d.chan = Config.handlerBehaviour h d.chan s.view) ∧
    (d.phase = .handler → s.ctx = .handler ∧ ∀ i t, exec i s = .next t →
      (t.responses = s.responses → t.currentDispatch = some d) ∧
      (t.responses ≠ s.responses → t.seqHandler = .idle ∧
        (s.handlerWords = [] → s.handlerEnd = .returns →
          t.currentDispatch = some { d with phase := .clearRaw }) ∧
        (s.handlerWords ≠ [] ∨ s.handlerEnd ≠ .returns → t.currentDispatch = some d))) ∧
    (d.phase = .clearRaw → exec .handleInterrupt s =
      dispatchComesTo { d with phase := .unforceRead }
        { s with intr := s.intr &&& ~~~(1#8 <<< d.chan.val) }) ∧
    (d.phase = .unforceRead → exec .handleInterrupt s =
      dispatchComesTo { d with phase := .unforceWrite, tmp := s.regRead .intf } s) ∧
    (d.phase = .unforceWrite →
      (∀ c, IsFirstFrom d.snapshot (d.chan.val + 1) c → exec .handleInterrupt s =
        dispatchComesTo { d with chan := c, phase := .notify }
          { s with intf := d.tmp.setWidth 8 &&& ~~~(1#8 <<< d.chan.val) }) ∧
      (NoneFrom d.snapshot (d.chan.val + 1) → exec .handleInterrupt s =
        dispatchComesTo { d with phase := .respond }
          { s with intf := d.tmp.setWidth 8 &&& ~~~(1#8 <<< d.chan.val) })) ∧
    (d.phase = .respond →
      ∃ t, exec .handleInterrupt s = .next t ∧ Finished s t (.ok 0) ∧ KeepsBank s t ∧
        KeepsSurroundings s t)

/-- R178, R221 (D28): a handler that presents `handle_interrupt` raises the fault `Reentrancy`, and
nothing else changes. -/
def Obligations.HandlerMayNotReenterTheDispatcher : Prop :=
  ∀ s : State, s.ctx = .handler → s.seqHandler = .idle →
    ∃ t, exec .handleInterrupt s = .next t ∧ t.faultLog = s.faultLog ++ [.reentrancy] ∧
      KeepsBank s t ∧ t.handler = s.handler ∧ t.responses = s.responses ∧ t.firedLog = s.firedLog

/-- R217, R219 (D10, D28): `TakeIrq` comes about exactly where a channel is pending and no dispatch is in
progress; it puts the interrupt context before step 1 of the dispatcher and saves, masks and changes
nothing else of the block. The second clause is the model's choice and no rule's: a `TakeIrq` that stands
in `schedule` but is not enabled when its turn comes passes that turn (notes/assumptions/3.md, DESIGN
CHOICE); in both, the turn leaves `schedule` (3.md) and adds one to `draws` (8.md, DESIGN CHOICE); and the
zeros of the dispatch before its step 1 are the model's (29.md, DESIGN CHOICE). -/
def Obligations.TakeIrqEntersAndSavesNothing : Prop :=
  ∀ (s : State) (rest : List Turn), s.Faultless → s.schedule = .event .takeIrq :: rest →
    ((∃ c, s.pending c = true) → s.seqIrq = .idle → s.seqFg.inDispatch = false →
      step s = .next { s with
        seqIrq := .dispatch { snapshot := 0, chan := 0, phase := .readStatus, tmp := 0 }
        schedule := rest, draws := s.draws + 1 }) ∧
    (((∀ c, s.pending c = false) ∨ s.seqIrq ≠ .idle ∨ s.seqFg.inDispatch = true) →
      step s = .next { s with schedule := rest, draws := s.draws + 1 })

/-- R219, R221: while the interrupt context is in a dispatch the foreground does not step: its sequencer
stays as it is, `tmp` included, and it accepts no command, until the dispatch has ended. -/
def Obligations.ForegroundWaitsDuringADispatch : Prop :=
  ∀ s t : State, s.SequencersLegal → s.seqIrq ≠ .idle → step s = .next t →
    t.seqFg = s.seqFg ∧ t.port = s.port

/-! ### Timer array (45_timer_array.md) -/

/-- R190, R191, R193, R195 (D34, D39): a tick of a channel that may tick counts in trailing-edge mode up
to `TOP` and then to 0 with the raw interrupt latched, and beyond `TOP` through 65535 to 0 with no latch;
a stopped channel, a gated one whose pin is low, and one that counts edges do not tick of themselves. -/
def Obligations.TrailingEdgeTick : Prop :=
  ∀ (c : ChannelId) (s : State), (s.chan c).divInt ≠ 0 →
    ((s.chan c).en = true → (s.chan c).SelfDriven → (s.chan c).phCorrect = false →
      CountsTrailingEdge c s (s.event (.tick c))) ∧
    ((s.chan c).en = false ∨ ((s.chan c).divMode = .gatedHigh ∧ (s.chan c).pinBIn = false) ∨
      (s.chan c).divMode = .risingEdge ∨ (s.chan c).divMode = .fallingEdge →
      s.event (.tick c) = s)

/-- R190, R192, R195 (D20, D34): a tick in phase-correct mode, of a channel that runs free or is gated with
its pin high. With the OPEN `CounterStep` the counter, the direction and the latch are what that function
gives, whatever it is; with the reference choice exactly one of its four arms runs. -/
def Obligations.PhaseCorrectTick : Prop :=
  ∀ (c : ChannelId) (s : State), (s.chan c).divInt ≠ 0 → (s.chan c).en = true →
    (s.chan c).SelfDriven → (s.chan c).phCorrect = true →
    CountsPhaseCorrect c s (s.event (.tick c))

/-- R193, R195 (D34): a change of the B pin keeps the old level as the previous one; it moves the counter
only where the channel is enabled, counts edges, and the change is the matching edge; then whether it does
is the environment's (`counts`: U14, notes/assumptions/13.md, DESIGN CHOICE), and if it does it is one
count in the channel's mode, with its wrap. -/
def Obligations.PinBCountsOnlyAMatchingEdge : Prop :=
  ∀ (c : ChannelId) (level counts : Bool) (s : State), (s.chan c).divInt ≠ 0 →
    ((s.event (.pinB c level counts)).chan c).pinBIn = level ∧
    ((s.event (.pinB c level counts)).chan c).pinBPrev = (s.chan c).pinBIn ∧
    ((s.chan c).en = false ∨ counts = false ∨ ¬(s.chan c).EdgeCounts level →
      ((s.event (.pinB c level counts)).chan c).ctr = (s.chan c).ctr ∧
      ((s.event (.pinB c level counts)).chan c).dir = (s.chan c).dir ∧
      (s.event (.pinB c level counts)).intr = s.intr) ∧
    ((s.chan c).en = true → counts = true → (s.chan c).EdgeCounts level →
      Counts c s (s.event (.pinB c level counts)))

/-- R196, R197 (D21): an acknowledgement is enabled only on a pending request of a running channel, for an
advance only with a divider above 1. `RetAck` clears the request and leaves the counter; `AdvAck` clears
the request and takes one count in the channel's mode (R191 or R192), with its wrap; neither changes
another bit of `CSR`. -/
def Obligations.AcknowledgementsClearTheirRequest : Prop :=
  ∀ (c : ChannelId) (s : State), (s.chan c).divInt ≠ 0 →
    ((s.chan c).phRet = true → (s.chan c).running = true →
      ((s.event (.retAck c)).chan c).phRet = false ∧
      (∀ k, k ≠ 6 → ((s.event (.retAck c)).chan c).csr.getLsbD k = (s.chan c).csr.getLsbD k) ∧
      OnlyCsr (s.chan c) ((s.event (.retAck c)).chan c) ∧ (s.event (.retAck c)).intr = s.intr) ∧
    (((s.chan c).phRet = false ∨ (s.chan c).running = false) → s.event (.retAck c) = s) ∧
    ((s.chan c).phAdv = true → (s.chan c).running = true → 16 < (s.chan c).dividerValue16 →
      ((s.event (.advAck c)).chan c).phAdv = false ∧
      (∀ k, k ≠ 7 → ((s.event (.advAck c)).chan c).csr.getLsbD k = (s.chan c).csr.getLsbD k) ∧
      Counts c s (s.event (.advAck c))) ∧
    (((s.chan c).phAdv = false ∨ (s.chan c).running = false ∨ (s.chan c).dividerValue16 ≤ 16) →
      s.event (.advAck c) = s)

/-- R200: what the timer array never does. A step of it, the `Tick` of an edge included, writes no `TOP`,
`DIV`, `CC`, `INTE`, `INTF` or handler slot, no `CSR` bit but for clearing `PH_RET` and `PH_ADV`, never
clears a raw interrupt, never calls the handler and never stops a channel. -/
def Obligations.TimerArrayWritesOnlyItsOwn : Prop :=
  ∀ (e : Event) (s t : State) (rest : List Turn),
    (∃ c, e = .tick c ∨ e = .advAck c ∨ e = .retAck c ∨ ∃ level counts, e = .pinB c level counts) →
    s.schedule = .event e :: rest → step s = .next t →
    (∀ d, (t.chan d).top = (s.chan d).top ∧ (t.chan d).div = (s.chan d).div ∧
      (t.chan d).cc = (s.chan d).cc ∧
      (∀ k, k < 6 → (t.chan d).csr.getLsbD k = (s.chan d).csr.getLsbD k) ∧
      ((t.chan d).phRet = true → (s.chan d).phRet = true) ∧
      ((t.chan d).phAdv = true → (s.chan d).phAdv = true)) ∧
    t.inte = s.inte ∧ t.intf = s.intf ∧ t.handler = s.handler ∧
    (∀ d : ChannelId, s.intr.getLsbD d.val = true → t.intr.getLsbD d.val = true) ∧
    t.firedLog = s.firedLog ∧ t.seqFg = s.seqFg ∧ t.seqIrq = s.seqIrq

/-- R201: channels are independent. A step of channel `c` writes only channel `c` and its bit of `INTR`,
and what it writes there depends on nothing else. -/
def Obligations.ChannelsAreIndependent : Prop :=
  ∀ (c : ChannelId) (e : Event),
    (e = .tick c ∨ e = .advAck c ∨ e = .retAck c ∨ ∃ level counts, e = .pinB c level counts) →
    (∀ s : State, KeepsOtherChannels c s (s.event e) ∧
      (∀ d : ChannelId, d ≠ c → (s.event e).intr.getLsbD d.val = s.intr.getLsbD d.val) ∧
      (s.event e).inte = s.inte ∧ (s.event e).intf = s.intf) ∧
    (∀ s t : State, s.chan c = t.chan c → s.intr.getLsbD c.val = t.intr.getLsbD c.val →
      s.counterStep = t.counterStep →
      (s.event e).chan c = (t.event e).chan c ∧
      (s.event e).intr.getLsbD c.val = (t.event e).intr.getLsbD c.val)

/-- R198 (D27): the outputs of an enabled channel in trailing-edge mode that is not `disturbed`: high while
the counter is below the compare value, inverted by the polarity bit; B only where it is an output. A
compare of 0 is never high, one above `TOP` always high over a counter of `0..TOP`. The hypothesis stands
for R199's "period in which a register was changed", and what counts as such a change is the model's choice
(notes/assumptions/12.md, DESIGN CHOICE): a write of `TOP`, `CC`, `DIV` or `CSR` of a channel that was
enabled already, until its next wrap. A write to a stopped channel, the write of `CSR` that enables it, and
writes of `EN` and `CTR` do not count, so after these the statement speaks of the outputs at once. -/
def Obligations.OutputsCompareCounterAndValue : Prop :=
  ∀ (c : ChannelId) (s : State), (s.chan c).en = true → (s.chan c).phCorrect = false →
    (s.chan c).disturbed = false →
    s.outA c = (decide ((s.chan c).ctr.toNat < (s.chan c).ccA.toNat) ^^ (s.chan c).aInv) ∧
    ((s.chan c).divMode = .freeRunning → s.outB c =
      some (decide ((s.chan c).ctr.toNat < (s.chan c).ccB.toNat) ^^ (s.chan c).bInv)) ∧
    ((s.chan c).divMode ≠ .freeRunning → s.outB c = none) ∧
    ((s.chan c).ccA = 0 → (s.chan c).aInv = false → s.outA c = false) ∧
    ((s.chan c).ctr.toNat ≤ (s.chan c).top.toNat → (s.chan c).top.toNat < (s.chan c).ccA.toNat →
      (s.chan c).aInv = false → s.outA c = true)
end

