-- ==== Sys2Proof/Laws/State.lean ====
section
/-! SUPPORT. The fields of the state after each update: one lemma for each field an update leaves
unchanged, so that no later proof unfolds a record update. -/

namespace Sys2Proof.Machine.State

open Sys2Proof

/-! ### A channel replaced -/

@[simp] theorem setChan_intr (s : State) (c : ChannelId) (ch : Channel) :
    (s.setChan c ch).intr = s.intr := rfl

@[simp] theorem setChan_inte (s : State) (c : ChannelId) (ch : Channel) :
    (s.setChan c ch).inte = s.inte := rfl

@[simp] theorem setChan_intf (s : State) (c : ChannelId) (ch : Channel) :
    (s.setChan c ch).intf = s.intf := rfl

@[simp] theorem setChan_handler (s : State) (c : ChannelId) (ch : Channel) :
    (s.setChan c ch).handler = s.handler := rfl

@[simp] theorem setChan_seqFg (s : State) (c : ChannelId) (ch : Channel) :
    (s.setChan c ch).seqFg = s.seqFg := rfl

@[simp] theorem setChan_seqIrq (s : State) (c : ChannelId) (ch : Channel) :
    (s.setChan c ch).seqIrq = s.seqIrq := rfl

@[simp] theorem setChan_seqHandler (s : State) (c : ChannelId) (ch : Channel) :
    (s.setChan c ch).seqHandler = s.seqHandler := rfl

@[simp] theorem setChan_handlerWords (s : State) (c : ChannelId) (ch : Channel) :
    (s.setChan c ch).handlerWords = s.handlerWords := rfl

@[simp] theorem setChan_handlerEnd (s : State) (c : ChannelId) (ch : Channel) :
    (s.setChan c ch).handlerEnd = s.handlerEnd := rfl

@[simp] theorem setChan_sysClkHz (s : State) (c : ChannelId) (ch : Channel) :
    (s.setChan c ch).sysClkHz = s.sysClkHz := rfl

@[simp] theorem setChan_port (s : State) (c : ChannelId) (ch : Channel) :
    (s.setChan c ch).port = s.port := rfl

@[simp] theorem setChan_handlerBehaviour (s : State) (c : ChannelId) (ch : Channel) :
    (s.setChan c ch).handlerBehaviour = s.handlerBehaviour := rfl

@[simp] theorem setChan_handlerScript (s : State) (c : ChannelId) (ch : Channel) :
    (s.setChan c ch).handlerScript = s.handlerScript := rfl

@[simp] theorem setChan_schedule (s : State) (c : ChannelId) (ch : Channel) :
    (s.setChan c ch).schedule = s.schedule := rfl

@[simp] theorem setChan_quantum (s : State) (c : ChannelId) (ch : Channel) :
    (s.setChan c ch).quantum = s.quantum := rfl

@[simp] theorem setChan_counterStep (s : State) (c : ChannelId) (ch : Channel) :
    (s.setChan c ch).counterStep = s.counterStep := rfl

@[simp] theorem setChan_draws (s : State) (c : ChannelId) (ch : Channel) :
    (s.setChan c ch).draws = s.draws := rfl

@[simp] theorem setChan_firedLog (s : State) (c : ChannelId) (ch : Channel) :
    (s.setChan c ch).firedLog = s.firedLog := rfl

@[simp] theorem setChan_faultLog (s : State) (c : ChannelId) (ch : Channel) :
    (s.setChan c ch).faultLog = s.faultLog := rfl

@[simp] theorem setChan_responses (s : State) (c : ChannelId) (ch : Channel) :
    (s.setChan c ch).responses = s.responses := rfl

/-! ### The enable bits written -/

@[simp] theorem writeEnables_intr (s : State) (v : Word) :
    (s.writeEnables v).intr = s.intr := rfl

@[simp] theorem writeEnables_inte (s : State) (v : Word) :
    (s.writeEnables v).inte = s.inte := rfl

@[simp] theorem writeEnables_intf (s : State) (v : Word) :
    (s.writeEnables v).intf = s.intf := rfl

@[simp] theorem writeEnables_handler (s : State) (v : Word) :
    (s.writeEnables v).handler = s.handler := rfl

@[simp] theorem writeEnables_seqFg (s : State) (v : Word) :
    (s.writeEnables v).seqFg = s.seqFg := rfl

@[simp] theorem writeEnables_seqIrq (s : State) (v : Word) :
    (s.writeEnables v).seqIrq = s.seqIrq := rfl

@[simp] theorem writeEnables_seqHandler (s : State) (v : Word) :
    (s.writeEnables v).seqHandler = s.seqHandler := rfl

@[simp] theorem writeEnables_handlerWords (s : State) (v : Word) :
    (s.writeEnables v).handlerWords = s.handlerWords := rfl

@[simp] theorem writeEnables_handlerEnd (s : State) (v : Word) :
    (s.writeEnables v).handlerEnd = s.handlerEnd := rfl

@[simp] theorem writeEnables_sysClkHz (s : State) (v : Word) :
    (s.writeEnables v).sysClkHz = s.sysClkHz := rfl

@[simp] theorem writeEnables_port (s : State) (v : Word) :
    (s.writeEnables v).port = s.port := rfl

@[simp] theorem writeEnables_handlerBehaviour (s : State) (v : Word) :
    (s.writeEnables v).handlerBehaviour = s.handlerBehaviour := rfl

@[simp] theorem writeEnables_handlerScript (s : State) (v : Word) :
    (s.writeEnables v).handlerScript = s.handlerScript := rfl

@[simp] theorem writeEnables_schedule (s : State) (v : Word) :
    (s.writeEnables v).schedule = s.schedule := rfl

@[simp] theorem writeEnables_quantum (s : State) (v : Word) :
    (s.writeEnables v).quantum = s.quantum := rfl

@[simp] theorem writeEnables_counterStep (s : State) (v : Word) :
    (s.writeEnables v).counterStep = s.counterStep := rfl

@[simp] theorem writeEnables_draws (s : State) (v : Word) :
    (s.writeEnables v).draws = s.draws := rfl

@[simp] theorem writeEnables_firedLog (s : State) (v : Word) :
    (s.writeEnables v).firedLog = s.firedLog := rfl

@[simp] theorem writeEnables_faultLog (s : State) (v : Word) :
    (s.writeEnables v).faultLog = s.faultLog := rfl

@[simp] theorem writeEnables_responses (s : State) (v : Word) :
    (s.writeEnables v).responses = s.responses := rfl

/-! ### A register written -/

@[simp] theorem regWrite_handler (s : State) (r : Reg) (v : Word) :
    (s.regWrite r v).handler = s.handler := by
  cases r <;> rfl

@[simp] theorem regWrite_seqFg (s : State) (r : Reg) (v : Word) :
    (s.regWrite r v).seqFg = s.seqFg := by
  cases r <;> rfl

@[simp] theorem regWrite_seqIrq (s : State) (r : Reg) (v : Word) :
    (s.regWrite r v).seqIrq = s.seqIrq := by
  cases r <;> rfl

@[simp] theorem regWrite_seqHandler (s : State) (r : Reg) (v : Word) :
    (s.regWrite r v).seqHandler = s.seqHandler := by
  cases r <;> rfl

@[simp] theorem regWrite_handlerWords (s : State) (r : Reg) (v : Word) :
    (s.regWrite r v).handlerWords = s.handlerWords := by
  cases r <;> rfl

@[simp] theorem regWrite_handlerEnd (s : State) (r : Reg) (v : Word) :
    (s.regWrite r v).handlerEnd = s.handlerEnd := by
  cases r <;> rfl

@[simp] theorem regWrite_sysClkHz (s : State) (r : Reg) (v : Word) :
    (s.regWrite r v).sysClkHz = s.sysClkHz := by
  cases r <;> rfl

@[simp] theorem regWrite_port (s : State) (r : Reg) (v : Word) :
    (s.regWrite r v).port = s.port := by
  cases r <;> rfl

@[simp] theorem regWrite_handlerBehaviour (s : State) (r : Reg) (v : Word) :
    (s.regWrite r v).handlerBehaviour = s.handlerBehaviour := by
  cases r <;> rfl

@[simp] theorem regWrite_handlerScript (s : State) (r : Reg) (v : Word) :
    (s.regWrite r v).handlerScript = s.handlerScript := by
  cases r <;> rfl

@[simp] theorem regWrite_schedule (s : State) (r : Reg) (v : Word) :
    (s.regWrite r v).schedule = s.schedule := by
  cases r <;> rfl

@[simp] theorem regWrite_quantum (s : State) (r : Reg) (v : Word) :
    (s.regWrite r v).quantum = s.quantum := by
  cases r <;> rfl

@[simp] theorem regWrite_counterStep (s : State) (r : Reg) (v : Word) :
    (s.regWrite r v).counterStep = s.counterStep := by
  cases r <;> rfl

@[simp] theorem regWrite_draws (s : State) (r : Reg) (v : Word) :
    (s.regWrite r v).draws = s.draws := by
  cases r <;> rfl

@[simp] theorem regWrite_firedLog (s : State) (r : Reg) (v : Word) :
    (s.regWrite r v).firedLog = s.firedLog := by
  cases r <;> rfl

@[simp] theorem regWrite_faultLog (s : State) (r : Reg) (v : Word) :
    (s.regWrite r v).faultLog = s.faultLog := by
  cases r <;> rfl

@[simp] theorem regWrite_responses (s : State) (r : Reg) (v : Word) :
    (s.regWrite r v).responses = s.responses := by
  cases r <;> rfl

/-! ### A sequencer put elsewhere -/

@[simp] theorem setSeq_chans (s : State) (q : Seq) :
    (s.setSeq q).chans = s.chans := by
  unfold State.setSeq; split <;> [rfl; rfl; (split <;> rfl)]

@[simp] theorem setSeq_intr (s : State) (q : Seq) :
    (s.setSeq q).intr = s.intr := by
  unfold State.setSeq; split <;> [rfl; rfl; (split <;> rfl)]

@[simp] theorem setSeq_inte (s : State) (q : Seq) :
    (s.setSeq q).inte = s.inte := by
  unfold State.setSeq; split <;> [rfl; rfl; (split <;> rfl)]

@[simp] theorem setSeq_intf (s : State) (q : Seq) :
    (s.setSeq q).intf = s.intf := by
  unfold State.setSeq; split <;> [rfl; rfl; (split <;> rfl)]

@[simp] theorem setSeq_handler (s : State) (q : Seq) :
    (s.setSeq q).handler = s.handler := by
  unfold State.setSeq; split <;> [rfl; rfl; (split <;> rfl)]

@[simp] theorem setSeq_handlerWords (s : State) (q : Seq) :
    (s.setSeq q).handlerWords = s.handlerWords := by
  unfold State.setSeq; split <;> [rfl; rfl; (split <;> rfl)]

@[simp] theorem setSeq_handlerEnd (s : State) (q : Seq) :
    (s.setSeq q).handlerEnd = s.handlerEnd := by
  unfold State.setSeq; split <;> [rfl; rfl; (split <;> rfl)]

@[simp] theorem setSeq_sysClkHz (s : State) (q : Seq) :
    (s.setSeq q).sysClkHz = s.sysClkHz := by
  unfold State.setSeq; split <;> [rfl; rfl; (split <;> rfl)]

@[simp] theorem setSeq_port (s : State) (q : Seq) :
    (s.setSeq q).port = s.port := by
  unfold State.setSeq; split <;> [rfl; rfl; (split <;> rfl)]

@[simp] theorem setSeq_handlerBehaviour (s : State) (q : Seq) :
    (s.setSeq q).handlerBehaviour = s.handlerBehaviour := by
  unfold State.setSeq; split <;> [rfl; rfl; (split <;> rfl)]

@[simp] theorem setSeq_handlerScript (s : State) (q : Seq) :
    (s.setSeq q).handlerScript = s.handlerScript := by
  unfold State.setSeq; split <;> [rfl; rfl; (split <;> rfl)]

@[simp] theorem setSeq_schedule (s : State) (q : Seq) :
    (s.setSeq q).schedule = s.schedule := by
  unfold State.setSeq; split <;> [rfl; rfl; (split <;> rfl)]

@[simp] theorem setSeq_quantum (s : State) (q : Seq) :
    (s.setSeq q).quantum = s.quantum := by
  unfold State.setSeq; split <;> [rfl; rfl; (split <;> rfl)]

@[simp] theorem setSeq_counterStep (s : State) (q : Seq) :
    (s.setSeq q).counterStep = s.counterStep := by
  unfold State.setSeq; split <;> [rfl; rfl; (split <;> rfl)]

@[simp] theorem setSeq_draws (s : State) (q : Seq) :
    (s.setSeq q).draws = s.draws := by
  unfold State.setSeq; split <;> [rfl; rfl; (split <;> rfl)]

@[simp] theorem setSeq_firedLog (s : State) (q : Seq) :
    (s.setSeq q).firedLog = s.firedLog := by
  unfold State.setSeq; split <;> [rfl; rfl; (split <;> rfl)]

@[simp] theorem setSeq_faultLog (s : State) (q : Seq) :
    (s.setSeq q).faultLog = s.faultLog := by
  unfold State.setSeq; split <;> [rfl; rfl; (split <;> rfl)]

@[simp] theorem setSeq_responses (s : State) (q : Seq) :
    (s.setSeq q).responses = s.responses := by
  unfold State.setSeq; split <;> [rfl; rfl; (split <;> rfl)]

@[simp] theorem setDispatch_chans (s : State) (d : Dispatch) :
    (s.setDispatch d).chans = s.chans := by
  unfold State.setDispatch; split <;> rfl

@[simp] theorem setDispatch_intr (s : State) (d : Dispatch) :
    (s.setDispatch d).intr = s.intr := by
  unfold State.setDispatch; split <;> rfl

@[simp] theorem setDispatch_inte (s : State) (d : Dispatch) :
    (s.setDispatch d).inte = s.inte := by
  unfold State.setDispatch; split <;> rfl

@[simp] theorem setDispatch_intf (s : State) (d : Dispatch) :
    (s.setDispatch d).intf = s.intf := by
  unfold State.setDispatch; split <;> rfl

@[simp] theorem setDispatch_handler (s : State) (d : Dispatch) :
    (s.setDispatch d).handler = s.handler := by
  unfold State.setDispatch; split <;> rfl

@[simp] theorem setDispatch_seqHandler (s : State) (d : Dispatch) :
    (s.setDispatch d).seqHandler = s.seqHandler := by
  unfold State.setDispatch; split <;> rfl

@[simp] theorem setDispatch_handlerWords (s : State) (d : Dispatch) :
    (s.setDispatch d).handlerWords = s.handlerWords := by
  unfold State.setDispatch; split <;> rfl

@[simp] theorem setDispatch_handlerEnd (s : State) (d : Dispatch) :
    (s.setDispatch d).handlerEnd = s.handlerEnd := by
  unfold State.setDispatch; split <;> rfl

@[simp] theorem setDispatch_sysClkHz (s : State) (d : Dispatch) :
    (s.setDispatch d).sysClkHz = s.sysClkHz := by
  unfold State.setDispatch; split <;> rfl

@[simp] theorem setDispatch_port (s : State) (d : Dispatch) :
    (s.setDispatch d).port = s.port := by
  unfold State.setDispatch; split <;> rfl

@[simp] theorem setDispatch_handlerBehaviour (s : State) (d : Dispatch) :
    (s.setDispatch d).handlerBehaviour = s.handlerBehaviour := by
  unfold State.setDispatch; split <;> rfl

@[simp] theorem setDispatch_handlerScript (s : State) (d : Dispatch) :
    (s.setDispatch d).handlerScript = s.handlerScript := by
  unfold State.setDispatch; split <;> rfl

@[simp] theorem setDispatch_schedule (s : State) (d : Dispatch) :
    (s.setDispatch d).schedule = s.schedule := by
  unfold State.setDispatch; split <;> rfl

@[simp] theorem setDispatch_quantum (s : State) (d : Dispatch) :
    (s.setDispatch d).quantum = s.quantum := by
  unfold State.setDispatch; split <;> rfl

@[simp] theorem setDispatch_counterStep (s : State) (d : Dispatch) :
    (s.setDispatch d).counterStep = s.counterStep := by
  unfold State.setDispatch; split <;> rfl

@[simp] theorem setDispatch_draws (s : State) (d : Dispatch) :
    (s.setDispatch d).draws = s.draws := by
  unfold State.setDispatch; split <;> rfl

@[simp] theorem setDispatch_firedLog (s : State) (d : Dispatch) :
    (s.setDispatch d).firedLog = s.firedLog := by
  unfold State.setDispatch; split <;> rfl

@[simp] theorem setDispatch_faultLog (s : State) (d : Dispatch) :
    (s.setDispatch d).faultLog = s.faultLog := by
  unfold State.setDispatch; split <;> rfl

@[simp] theorem setDispatch_responses (s : State) (d : Dispatch) :
    (s.setDispatch d).responses = s.responses := by
  unfold State.setDispatch; split <;> rfl

@[simp] theorem handlerReturn_chans (s : State) :
    (s.handlerReturn).chans = s.chans := by
  unfold State.handlerReturn; split <;> simp

@[simp] theorem handlerReturn_intr (s : State) :
    (s.handlerReturn).intr = s.intr := by
  unfold State.handlerReturn; split <;> simp

@[simp] theorem handlerReturn_inte (s : State) :
    (s.handlerReturn).inte = s.inte := by
  unfold State.handlerReturn; split <;> simp

@[simp] theorem handlerReturn_intf (s : State) :
    (s.handlerReturn).intf = s.intf := by
  unfold State.handlerReturn; split <;> simp

@[simp] theorem handlerReturn_handler (s : State) :
    (s.handlerReturn).handler = s.handler := by
  unfold State.handlerReturn; split <;> simp

@[simp] theorem handlerReturn_seqHandler (s : State) :
    (s.handlerReturn).seqHandler = s.seqHandler := by
  unfold State.handlerReturn; split <;> simp

@[simp] theorem handlerReturn_handlerWords (s : State) :
    (s.handlerReturn).handlerWords = s.handlerWords := by
  unfold State.handlerReturn; split <;> simp

@[simp] theorem handlerReturn_handlerEnd (s : State) :
    (s.handlerReturn).handlerEnd = s.handlerEnd := by
  unfold State.handlerReturn; split <;> simp

@[simp] theorem handlerReturn_sysClkHz (s : State) :
    (s.handlerReturn).sysClkHz = s.sysClkHz := by
  unfold State.handlerReturn; split <;> simp

@[simp] theorem handlerReturn_port (s : State) :
    (s.handlerReturn).port = s.port := by
  unfold State.handlerReturn; split <;> simp

@[simp] theorem handlerReturn_handlerBehaviour (s : State) :
    (s.handlerReturn).handlerBehaviour = s.handlerBehaviour := by
  unfold State.handlerReturn; split <;> simp

@[simp] theorem handlerReturn_handlerScript (s : State) :
    (s.handlerReturn).handlerScript = s.handlerScript := by
  unfold State.handlerReturn; split <;> simp

@[simp] theorem handlerReturn_schedule (s : State) :
    (s.handlerReturn).schedule = s.schedule := by
  unfold State.handlerReturn; split <;> simp

@[simp] theorem handlerReturn_quantum (s : State) :
    (s.handlerReturn).quantum = s.quantum := by
  unfold State.handlerReturn; split <;> simp

@[simp] theorem handlerReturn_counterStep (s : State) :
    (s.handlerReturn).counterStep = s.counterStep := by
  unfold State.handlerReturn; split <;> simp

@[simp] theorem handlerReturn_draws (s : State) :
    (s.handlerReturn).draws = s.draws := by
  unfold State.handlerReturn; split <;> simp

@[simp] theorem handlerReturn_firedLog (s : State) :
    (s.handlerReturn).firedLog = s.firedLog := by
  unfold State.handlerReturn; split <;> simp

@[simp] theorem handlerReturn_faultLog (s : State) :
    (s.handlerReturn).faultLog = s.faultLog := by
  unfold State.handlerReturn; split <;> simp

@[simp] theorem handlerReturn_responses (s : State) :
    (s.handlerReturn).responses = s.responses := by
  unfold State.handlerReturn; split <;> simp

/-! ### An operation ended -/

@[simp] theorem respond_chans (s : State) (a : Answer) :
    (s.respond a).chans = s.chans := by
  simp [State.respond]

@[simp] theorem respond_intr (s : State) (a : Answer) :
    (s.respond a).intr = s.intr := by
  simp [State.respond]

@[simp] theorem respond_inte (s : State) (a : Answer) :
    (s.respond a).inte = s.inte := by
  simp [State.respond]

@[simp] theorem respond_intf (s : State) (a : Answer) :
    (s.respond a).intf = s.intf := by
  simp [State.respond]

@[simp] theorem respond_handler (s : State) (a : Answer) :
    (s.respond a).handler = s.handler := by
  simp [State.respond]

@[simp] theorem respond_handlerWords (s : State) (a : Answer) :
    (s.respond a).handlerWords = s.handlerWords := by
  simp [State.respond]

@[simp] theorem respond_handlerEnd (s : State) (a : Answer) :
    (s.respond a).handlerEnd = s.handlerEnd := by
  simp [State.respond]

@[simp] theorem respond_sysClkHz (s : State) (a : Answer) :
    (s.respond a).sysClkHz = s.sysClkHz := by
  simp [State.respond]

@[simp] theorem respond_port (s : State) (a : Answer) :
    (s.respond a).port = s.port := by
  simp [State.respond]

@[simp] theorem respond_handlerBehaviour (s : State) (a : Answer) :
    (s.respond a).handlerBehaviour = s.handlerBehaviour := by
  simp [State.respond]

@[simp] theorem respond_handlerScript (s : State) (a : Answer) :
    (s.respond a).handlerScript = s.handlerScript := by
  simp [State.respond]

@[simp] theorem respond_schedule (s : State) (a : Answer) :
    (s.respond a).schedule = s.schedule := by
  simp [State.respond]

@[simp] theorem respond_quantum (s : State) (a : Answer) :
    (s.respond a).quantum = s.quantum := by
  simp [State.respond]

@[simp] theorem respond_counterStep (s : State) (a : Answer) :
    (s.respond a).counterStep = s.counterStep := by
  simp [State.respond]

@[simp] theorem respond_draws (s : State) (a : Answer) :
    (s.respond a).draws = s.draws := by
  simp [State.respond]

@[simp] theorem respond_firedLog (s : State) (a : Answer) :
    (s.respond a).firedLog = s.firedLog := by
  simp [State.respond]

@[simp] theorem respond_faultLog (s : State) (a : Answer) :
    (s.respond a).faultLog = s.faultLog := by
  simp [State.respond]

@[simp] theorem raise_chans (s : State) (f : Fault) :
    (s.raise f).chans = s.chans := by
  simp [State.raise]

@[simp] theorem raise_intr (s : State) (f : Fault) :
    (s.raise f).intr = s.intr := by
  simp [State.raise]

@[simp] theorem raise_inte (s : State) (f : Fault) :
    (s.raise f).inte = s.inte := by
  simp [State.raise]

@[simp] theorem raise_intf (s : State) (f : Fault) :
    (s.raise f).intf = s.intf := by
  simp [State.raise]

@[simp] theorem raise_handler (s : State) (f : Fault) :
    (s.raise f).handler = s.handler := by
  simp [State.raise]

@[simp] theorem raise_handlerWords (s : State) (f : Fault) :
    (s.raise f).handlerWords = s.handlerWords := by
  simp [State.raise]

@[simp] theorem raise_handlerEnd (s : State) (f : Fault) :
    (s.raise f).handlerEnd = s.handlerEnd := by
  simp [State.raise]

@[simp] theorem raise_sysClkHz (s : State) (f : Fault) :
    (s.raise f).sysClkHz = s.sysClkHz := by
  simp [State.raise]

@[simp] theorem raise_port (s : State) (f : Fault) :
    (s.raise f).port = s.port := by
  simp [State.raise]

@[simp] theorem raise_handlerBehaviour (s : State) (f : Fault) :
    (s.raise f).handlerBehaviour = s.handlerBehaviour := by
  simp [State.raise]

@[simp] theorem raise_handlerScript (s : State) (f : Fault) :
    (s.raise f).handlerScript = s.handlerScript := by
  simp [State.raise]

@[simp] theorem raise_schedule (s : State) (f : Fault) :
    (s.raise f).schedule = s.schedule := by
  simp [State.raise]

@[simp] theorem raise_quantum (s : State) (f : Fault) :
    (s.raise f).quantum = s.quantum := by
  simp [State.raise]

@[simp] theorem raise_counterStep (s : State) (f : Fault) :
    (s.raise f).counterStep = s.counterStep := by
  simp [State.raise]

@[simp] theorem raise_draws (s : State) (f : Fault) :
    (s.raise f).draws = s.draws := by
  simp [State.raise]

@[simp] theorem raise_firedLog (s : State) (f : Fault) :
    (s.raise f).firedLog = s.firedLog := by
  simp [State.raise]

@[simp] theorem raise_responses (s : State) (f : Fault) :
    (s.raise f).responses = s.responses := by
  simp [State.raise]

@[simp] theorem respond_responses (s : State) (a : Answer) :
    (s.respond a).responses = s.responses ++ [(s.ctx, a.word)] := by
  simp [State.respond]

@[simp] theorem raise_faultLog (s : State) (f : Fault) :
    (s.raise f).faultLog = s.faultLog ++ [f] := by
  simp [State.raise]

/-! ### A dispatch entered, a call recorded, a turn begun, a wrap latched -/

@[simp] theorem recordCall_chans (s : State) (h : Handle) (c : ChannelId) :
    (s.recordCall h c).chans = s.chans := rfl

@[simp] theorem recordCall_intr (s : State) (h : Handle) (c : ChannelId) :
    (s.recordCall h c).intr = s.intr := rfl

@[simp] theorem recordCall_inte (s : State) (h : Handle) (c : ChannelId) :
    (s.recordCall h c).inte = s.inte := rfl

@[simp] theorem recordCall_intf (s : State) (h : Handle) (c : ChannelId) :
    (s.recordCall h c).intf = s.intf := rfl

@[simp] theorem recordCall_handler (s : State) (h : Handle) (c : ChannelId) :
    (s.recordCall h c).handler = s.handler := rfl

@[simp] theorem recordCall_seqFg (s : State) (h : Handle) (c : ChannelId) :
    (s.recordCall h c).seqFg = s.seqFg := rfl

@[simp] theorem recordCall_seqIrq (s : State) (h : Handle) (c : ChannelId) :
    (s.recordCall h c).seqIrq = s.seqIrq := rfl

@[simp] theorem recordCall_seqHandler (s : State) (h : Handle) (c : ChannelId) :
    (s.recordCall h c).seqHandler = s.seqHandler := rfl

@[simp] theorem recordCall_handlerWords (s : State) (h : Handle) (c : ChannelId) :
    (s.recordCall h c).handlerWords = s.handlerWords := rfl

@[simp] theorem recordCall_handlerEnd (s : State) (h : Handle) (c : ChannelId) :
    (s.recordCall h c).handlerEnd = s.handlerEnd := rfl

@[simp] theorem recordCall_sysClkHz (s : State) (h : Handle) (c : ChannelId) :
    (s.recordCall h c).sysClkHz = s.sysClkHz := rfl

@[simp] theorem recordCall_port (s : State) (h : Handle) (c : ChannelId) :
    (s.recordCall h c).port = s.port := rfl

@[simp] theorem recordCall_handlerBehaviour (s : State) (h : Handle) (c : ChannelId) :
    (s.recordCall h c).handlerBehaviour = s.handlerBehaviour := rfl

@[simp] theorem recordCall_schedule (s : State) (h : Handle) (c : ChannelId) :
    (s.recordCall h c).schedule = s.schedule := rfl

@[simp] theorem recordCall_quantum (s : State) (h : Handle) (c : ChannelId) :
    (s.recordCall h c).quantum = s.quantum := rfl

@[simp] theorem recordCall_counterStep (s : State) (h : Handle) (c : ChannelId) :
    (s.recordCall h c).counterStep = s.counterStep := rfl

@[simp] theorem recordCall_draws (s : State) (h : Handle) (c : ChannelId) :
    (s.recordCall h c).draws = s.draws := rfl

@[simp] theorem recordCall_faultLog (s : State) (h : Handle) (c : ChannelId) :
    (s.recordCall h c).faultLog = s.faultLog := rfl

@[simp] theorem recordCall_responses (s : State) (h : Handle) (c : ChannelId) :
    (s.recordCall h c).responses = s.responses := rfl

@[simp] theorem recordCall_firedLog (s : State) (h : Handle) (c : ChannelId) :
    (s.recordCall h c).firedLog = s.firedLog ++ [(h, c)] := rfl

@[simp] theorem recordCall_handlerScript (s : State) (h : Handle) (c : ChannelId) :
    (s.recordCall h c).handlerScript = s.scriptAfterCall := rfl

@[simp] theorem takeIrq_chans (s : State) :
    (s.takeIrq).chans = s.chans := rfl

@[simp] theorem takeIrq_intr (s : State) :
    (s.takeIrq).intr = s.intr := rfl

@[simp] theorem takeIrq_inte (s : State) :
    (s.takeIrq).inte = s.inte := rfl

@[simp] theorem takeIrq_intf (s : State) :
    (s.takeIrq).intf = s.intf := rfl

@[simp] theorem takeIrq_handler (s : State) :
    (s.takeIrq).handler = s.handler := rfl

@[simp] theorem takeIrq_seqFg (s : State) :
    (s.takeIrq).seqFg = s.seqFg := rfl

@[simp] theorem takeIrq_seqHandler (s : State) :
    (s.takeIrq).seqHandler = s.seqHandler := rfl

@[simp] theorem takeIrq_handlerWords (s : State) :
    (s.takeIrq).handlerWords = s.handlerWords := rfl

@[simp] theorem takeIrq_handlerEnd (s : State) :
    (s.takeIrq).handlerEnd = s.handlerEnd := rfl

@[simp] theorem takeIrq_sysClkHz (s : State) :
    (s.takeIrq).sysClkHz = s.sysClkHz := rfl

@[simp] theorem takeIrq_port (s : State) :
    (s.takeIrq).port = s.port := rfl

@[simp] theorem takeIrq_handlerBehaviour (s : State) :
    (s.takeIrq).handlerBehaviour = s.handlerBehaviour := rfl

@[simp] theorem takeIrq_handlerScript (s : State) :
    (s.takeIrq).handlerScript = s.handlerScript := rfl

@[simp] theorem takeIrq_schedule (s : State) :
    (s.takeIrq).schedule = s.schedule := rfl

@[simp] theorem takeIrq_quantum (s : State) :
    (s.takeIrq).quantum = s.quantum := rfl

@[simp] theorem takeIrq_counterStep (s : State) :
    (s.takeIrq).counterStep = s.counterStep := rfl

@[simp] theorem takeIrq_draws (s : State) :
    (s.takeIrq).draws = s.draws := rfl

@[simp] theorem takeIrq_firedLog (s : State) :
    (s.takeIrq).firedLog = s.firedLog := rfl

@[simp] theorem takeIrq_faultLog (s : State) :
    (s.takeIrq).faultLog = s.faultLog := rfl

@[simp] theorem takeIrq_responses (s : State) :
    (s.takeIrq).responses = s.responses := rfl

@[simp] theorem beginTurn_chans (s : State) (rest : List Turn) (more : Nat) :
    (s.beginTurn rest more).chans = s.chans := rfl

@[simp] theorem beginTurn_intr (s : State) (rest : List Turn) (more : Nat) :
    (s.beginTurn rest more).intr = s.intr := rfl

@[simp] theorem beginTurn_inte (s : State) (rest : List Turn) (more : Nat) :
    (s.beginTurn rest more).inte = s.inte := rfl

@[simp] theorem beginTurn_intf (s : State) (rest : List Turn) (more : Nat) :
    (s.beginTurn rest more).intf = s.intf := rfl

@[simp] theorem beginTurn_handler (s : State) (rest : List Turn) (more : Nat) :
    (s.beginTurn rest more).handler = s.handler := rfl

@[simp] theorem beginTurn_seqFg (s : State) (rest : List Turn) (more : Nat) :
    (s.beginTurn rest more).seqFg = s.seqFg := rfl

@[simp] theorem beginTurn_seqIrq (s : State) (rest : List Turn) (more : Nat) :
    (s.beginTurn rest more).seqIrq = s.seqIrq := rfl

@[simp] theorem beginTurn_seqHandler (s : State) (rest : List Turn) (more : Nat) :
    (s.beginTurn rest more).seqHandler = s.seqHandler := rfl

@[simp] theorem beginTurn_handlerWords (s : State) (rest : List Turn) (more : Nat) :
    (s.beginTurn rest more).handlerWords = s.handlerWords := rfl

@[simp] theorem beginTurn_handlerEnd (s : State) (rest : List Turn) (more : Nat) :
    (s.beginTurn rest more).handlerEnd = s.handlerEnd := rfl

@[simp] theorem beginTurn_sysClkHz (s : State) (rest : List Turn) (more : Nat) :
    (s.beginTurn rest more).sysClkHz = s.sysClkHz := rfl

@[simp] theorem beginTurn_port (s : State) (rest : List Turn) (more : Nat) :
    (s.beginTurn rest more).port = s.port := rfl

@[simp] theorem beginTurn_handlerBehaviour (s : State) (rest : List Turn) (more : Nat) :
    (s.beginTurn rest more).handlerBehaviour = s.handlerBehaviour := rfl

@[simp] theorem beginTurn_handlerScript (s : State) (rest : List Turn) (more : Nat) :
    (s.beginTurn rest more).handlerScript = s.handlerScript := rfl

@[simp] theorem beginTurn_counterStep (s : State) (rest : List Turn) (more : Nat) :
    (s.beginTurn rest more).counterStep = s.counterStep := rfl

@[simp] theorem beginTurn_firedLog (s : State) (rest : List Turn) (more : Nat) :
    (s.beginTurn rest more).firedLog = s.firedLog := rfl

@[simp] theorem beginTurn_faultLog (s : State) (rest : List Turn) (more : Nat) :
    (s.beginTurn rest more).faultLog = s.faultLog := rfl

@[simp] theorem beginTurn_responses (s : State) (rest : List Turn) (more : Nat) :
    (s.beginTurn rest more).responses = s.responses := rfl

@[simp] theorem latchWrap_chans (s : State) (c : ChannelId) (b : Bool) :
    (s.latchWrap c b).chans = s.chans := by
  cases b <;> rfl

@[simp] theorem latchWrap_inte (s : State) (c : ChannelId) (b : Bool) :
    (s.latchWrap c b).inte = s.inte := by
  cases b <;> rfl

@[simp] theorem latchWrap_intf (s : State) (c : ChannelId) (b : Bool) :
    (s.latchWrap c b).intf = s.intf := by
  cases b <;> rfl

@[simp] theorem latchWrap_handler (s : State) (c : ChannelId) (b : Bool) :
    (s.latchWrap c b).handler = s.handler := by
  cases b <;> rfl

@[simp] theorem latchWrap_seqFg (s : State) (c : ChannelId) (b : Bool) :
    (s.latchWrap c b).seqFg = s.seqFg := by
  cases b <;> rfl

@[simp] theorem latchWrap_seqIrq (s : State) (c : ChannelId) (b : Bool) :
    (s.latchWrap c b).seqIrq = s.seqIrq := by
  cases b <;> rfl

@[simp] theorem latchWrap_seqHandler (s : State) (c : ChannelId) (b : Bool) :
    (s.latchWrap c b).seqHandler = s.seqHandler := by
  cases b <;> rfl

@[simp] theorem latchWrap_handlerWords (s : State) (c : ChannelId) (b : Bool) :
    (s.latchWrap c b).handlerWords = s.handlerWords := by
  cases b <;> rfl

@[simp] theorem latchWrap_handlerEnd (s : State) (c : ChannelId) (b : Bool) :
    (s.latchWrap c b).handlerEnd = s.handlerEnd := by
  cases b <;> rfl

@[simp] theorem latchWrap_sysClkHz (s : State) (c : ChannelId) (b : Bool) :
    (s.latchWrap c b).sysClkHz = s.sysClkHz := by
  cases b <;> rfl

@[simp] theorem latchWrap_port (s : State) (c : ChannelId) (b : Bool) :
    (s.latchWrap c b).port = s.port := by
  cases b <;> rfl

@[simp] theorem latchWrap_handlerBehaviour (s : State) (c : ChannelId) (b : Bool) :
    (s.latchWrap c b).handlerBehaviour = s.handlerBehaviour := by
  cases b <;> rfl

@[simp] theorem latchWrap_handlerScript (s : State) (c : ChannelId) (b : Bool) :
    (s.latchWrap c b).handlerScript = s.handlerScript := by
  cases b <;> rfl

@[simp] theorem latchWrap_schedule (s : State) (c : ChannelId) (b : Bool) :
    (s.latchWrap c b).schedule = s.schedule := by
  cases b <;> rfl

@[simp] theorem latchWrap_quantum (s : State) (c : ChannelId) (b : Bool) :
    (s.latchWrap c b).quantum = s.quantum := by
  cases b <;> rfl

@[simp] theorem latchWrap_counterStep (s : State) (c : ChannelId) (b : Bool) :
    (s.latchWrap c b).counterStep = s.counterStep := by
  cases b <;> rfl

@[simp] theorem latchWrap_draws (s : State) (c : ChannelId) (b : Bool) :
    (s.latchWrap c b).draws = s.draws := by
  cases b <;> rfl

@[simp] theorem latchWrap_firedLog (s : State) (c : ChannelId) (b : Bool) :
    (s.latchWrap c b).firedLog = s.firedLog := by
  cases b <;> rfl

@[simp] theorem latchWrap_faultLog (s : State) (c : ChannelId) (b : Bool) :
    (s.latchWrap c b).faultLog = s.faultLog := by
  cases b <;> rfl

@[simp] theorem latchWrap_responses (s : State) (c : ChannelId) (b : Bool) :
    (s.latchWrap c b).responses = s.responses := by
  cases b <;> rfl

/-! ### Channels -/

/-- The channels after one is replaced. -/
theorem chan_setChan (s : State) (c d : ChannelId) (ch : Channel) :
    (s.setChan c ch).chan d = if c = d then ch else s.chan d := by
  simp only [State.setChan, State.chan, Vector.get_eq_getElem, Vector.getElem_set, Fin.ext_iff]

@[simp] theorem chan_setChan_same (s : State) (c : ChannelId) (ch : Channel) :
    (s.setChan c ch).chan c = ch := by
  simp [chan_setChan]

theorem chan_setChan_ne (s : State) {c d : ChannelId} (ch : Channel) (h : d ≠ c) :
    (s.setChan c ch).chan d = s.chan d := by
  simp [chan_setChan, h.symm]

@[simp] theorem chan_writeEnables (s : State) (v : Word) (c : ChannelId) :
    (s.writeEnables v).chan c = (s.chan c).withEnable (v.getLsbD c.val) := by
  simp [State.writeEnables, State.chan, Vector.get_eq_getElem]

/-- Two states with the same channels have the same channel `c`. -/
theorem chan_congr {s t : State} (h : t.chans = s.chans) (c : ChannelId) : t.chan c = s.chan c := by
  simp [State.chan, h]

@[simp] theorem chan_setSeq (s : State) (q : Seq) (c : ChannelId) :
    (s.setSeq q).chan c = s.chan c := chan_congr (by simp) c

@[simp] theorem chan_setDispatch (s : State) (d : Dispatch) (c : ChannelId) :
    (s.setDispatch d).chan c = s.chan c := chan_congr (by simp) c

@[simp] theorem chan_respond (s : State) (a : Answer) (c : ChannelId) :
    (s.respond a).chan c = s.chan c := chan_congr (by simp) c

@[simp] theorem chan_raise (s : State) (f : Fault) (c : ChannelId) :
    (s.raise f).chan c = s.chan c := chan_congr (by simp) c

@[simp] theorem chan_handlerReturn (s : State) (c : ChannelId) :
    s.handlerReturn.chan c = s.chan c := chan_congr (by simp) c

@[simp] theorem chan_takeIrq (s : State) (c : ChannelId) : s.takeIrq.chan c = s.chan c := rfl

@[simp] theorem chan_recordCall (s : State) (h : Handle) (c d : ChannelId) :
    (s.recordCall h c).chan d = s.chan d := rfl

@[simp] theorem chan_beginTurn (s : State) (rest : List Turn) (more : Nat) (c : ChannelId) :
    (s.beginTurn rest more).chan c = s.chan c := rfl

@[simp] theorem chan_latchWrap (s : State) (b : Bool) (c d : ChannelId) :
    (s.latchWrap c b).chan d = s.chan d := chan_congr (by simp) d

@[simp] theorem chan_reset (c : ChannelId) : State.reset.chan c = Channel.reset := by
  simp [State.reset, State.chan, Vector.get_eq_getElem]

end Sys2Proof.Machine.State
end

