-- ==== Sys2Proof/Laws/Registers.lean ====
section
/-! SUPPORT. The register words: what each write of a channel register leaves in its fields, bit by bit,
and that it leaves the channel's other registers alone. -/

namespace Sys2Proof.Machine

open Sys2Proof

/-! ### `CSR` -/

/-- A write of `CSR` stores bits 5:0 and sets, never clears, a request (20_memory.md R45). -/
theorem writeCsr_csr_getLsbD (ch : Channel) (v : Word) (k : Nat) :
    (ch.writeCsr v).csr.getLsbD k =
      (decide (k < 8) && (v.getLsbD k || (decide (6 ≤ k) && ch.csr.getLsbD k))) := by
  by_cases h : k < 8
  · interval_cases k <;> simp [Channel.writeCsr, Bool.or_comm]
  · simp [h, BitVec.getLsbD_of_ge _ _ (Nat.not_lt.1 h)]

theorem csrWithEnable_getLsbD (ch : Channel) (en : Bool) (k : Nat) :
    (ch.writeCsr (csrWithEnable (ch.csr.setWidth 32) en)).csr.getLsbD k =
      if k = 0 then en else ch.csr.getLsbD k := by
  rw [writeCsr_csr_getLsbD]
  by_cases h : k < 8
  · interval_cases k <;> cases en <;> simp [csrWithEnable, boolWord]
  · have h0 : k ≠ 0 := by omega
    simp [h, h0, BitVec.getLsbD_of_ge _ _ (Nat.not_lt.1 h)]

theorem csrWithPhCorrect_getLsbD (ch : Channel) (ph : Bool) (k : Nat) :
    (ch.writeCsr (csrWithPhCorrect (ch.csr.setWidth 32) ph)).csr.getLsbD k =
      if k = 1 then ph else ch.csr.getLsbD k := by
  rw [writeCsr_csr_getLsbD]
  by_cases h : k < 8
  · interval_cases k <;> cases ph <;> simp [csrWithPhCorrect, boolWord]
  · have h0 : k ≠ 1 := by omega
    simp [h, h0, BitVec.getLsbD_of_ge _ _ (Nat.not_lt.1 h)]

theorem csrWithInvert_getLsbD (ch : Channel) (invA invB : Bool) (k : Nat) :
    (ch.writeCsr (csrWithInvert (ch.csr.setWidth 32) invA invB)).csr.getLsbD k =
      if k = 2 then invA else if k = 3 then invB else ch.csr.getLsbD k := by
  rw [writeCsr_csr_getLsbD]
  by_cases h : k < 8
  · interval_cases k <;> cases invA <;> cases invB <;> simp [csrWithInvert, boolWord]
  · have h2 : k ≠ 2 := by omega
    have h3 : k ≠ 3 := by omega
    simp [h, h2, h3, BitVec.getLsbD_of_ge _ _ (Nat.not_lt.1 h)]

theorem csrWithDivMode_getLsbD (ch : Channel) (mode : DivMode) (k : Nat) :
    (ch.writeCsr (csrWithDivMode (ch.csr.setWidth 32) mode)).csr.getLsbD k =
      if k = 4 then mode.toNat.testBit 0 else if k = 5 then mode.toNat.testBit 1
      else ch.csr.getLsbD k := by
  rw [writeCsr_csr_getLsbD]
  by_cases h : k < 8
  · interval_cases k <;> cases mode <;> simp [csrWithDivMode, DivMode.toNat, Nat.testBit]
  · have h4 : k ≠ 4 := by omega
    have h5 : k ≠ 5 := by omega
    simp [h, h4, h5, BitVec.getLsbD_of_ge _ _ (Nat.not_lt.1 h)]

theorem csrWithAdvance_getLsbD (ch : Channel) (k : Nat) :
    (ch.writeCsr (csrWithAdvance (ch.csr.setWidth 32))).csr.getLsbD k =
      (decide (k = 7) || ch.csr.getLsbD k) := by
  rw [writeCsr_csr_getLsbD]
  by_cases h : k < 8
  · interval_cases k <;> simp [csrWithAdvance]
  · have h7 : k ≠ 7 := by omega
    simp [h, h7, BitVec.getLsbD_of_ge _ _ (Nat.not_lt.1 h)]

theorem csrWithRetard_getLsbD (ch : Channel) (k : Nat) :
    (ch.writeCsr (csrWithRetard (ch.csr.setWidth 32))).csr.getLsbD k =
      (decide (k = 6) || ch.csr.getLsbD k) := by
  rw [writeCsr_csr_getLsbD]
  by_cases h : k < 8
  · interval_cases k <;> simp [csrWithRetard]
  · have h6 : k ≠ 6 := by omega
    simp [h, h6, BitVec.getLsbD_of_ge _ _ (Nat.not_lt.1 h)]

/-- The channel's divider-event source is read off two bits of `CSR`. -/
theorem divMode_congr {a b : Channel} (h4 : a.csr.getLsbD 4 = b.csr.getLsbD 4)
    (h5 : a.csr.getLsbD 5 = b.csr.getLsbD 5) : a.divMode = b.divMode := by
  unfold Channel.divMode; rw [h4, h5]

theorem divMode_eq {a : Channel} {mode : DivMode} (h4 : a.csr.getLsbD 4 = mode.toNat.testBit 0)
    (h5 : a.csr.getLsbD 5 = mode.toNat.testBit 1) : a.divMode = mode := by
  unfold Channel.divMode; rw [h4, h5]; cases mode <;> rfl

theorem withEnable_csr_getLsbD (ch : Channel) (en : Bool) (k : Nat) :
    (ch.withEnable en).csr.getLsbD k = if k = 0 then en else ch.csr.getLsbD k := by
  by_cases h : k < 8
  · interval_cases k <;> cases en <;> simp [Channel.withEnable]
  · have h0 : k ≠ 0 := by omega
    simp [h0, BitVec.getLsbD_of_ge _ _ (Nat.not_lt.1 h)]

/-! ### `DIV` and `CC` -/

/-- A well-formed divider is written whole (30_encoding.md R61). -/
theorem writeDiv_dividerWord (ch : Channel) (divInt divFrac : BitVec 8) (h : divFrac.toNat ≤ 15) :
    (ch.writeDiv (dividerWord divInt divFrac)).divInt = divInt ∧
      (ch.writeDiv (dividerWord divInt divFrac)).divFrac = divFrac.setWidth 4 := by
  have hb : ∀ k (hk : k < 8), 4 ≤ k → divFrac[k] = false := fun k hk h4 =>
    Nat.testBit_lt_two_pow (show divFrac.toNat < 2 ^ k by
      have : 2 ^ 4 ≤ 2 ^ k := Nat.pow_le_pow_right (by omega) h4
      omega)
  constructor
  · ext k hk
    interval_cases k <;>
      simp [Channel.divInt, Channel.writeDiv, dividerWord, hb]
  · ext k hk
    interval_cases k <;>
      simp [Channel.divFrac, Channel.writeDiv, dividerWord]

theorem ccWithA_fields (ch : Channel) (value : BitVec 16) :
    (ch.writeCc (ccWithA ch.cc value)).ccA = value ∧
      (ch.writeCc (ccWithA ch.cc value)).ccB = ch.ccB := by
  constructor <;> ext k hk <;> interval_cases k <;>
    simp [Channel.ccA, Channel.ccB, Channel.writeCc, ccWithA]

theorem ccWithB_fields (ch : Channel) (value : BitVec 16) :
    (ch.writeCc (ccWithB ch.cc value)).ccB = value ∧
      (ch.writeCc (ccWithB ch.cc value)).ccA = ch.ccA := by
  constructor <;> ext k hk <;> interval_cases k <;>
    simp [Channel.ccA, Channel.ccB, Channel.writeCc, ccWithB]

/-! ### Frames of the channel writes -/

theorem onlyCsr_writeCsr (ch : Channel) (v : Word) : OnlyCsr ch (ch.writeCsr v) := rfl
theorem onlyDiv_writeDiv (ch : Channel) (v : Word) : OnlyDiv ch (ch.writeDiv v) := rfl
theorem onlyCc_writeCc (ch : Channel) (v : Word) : OnlyCc ch (ch.writeCc v) := rfl
theorem onlyTop_writeTop (ch : Channel) (v : Word) : OnlyTop ch (ch.writeTop v) := rfl

theorem OnlyConfiguration.refl (a : Channel) : OnlyConfiguration a a := rfl

theorem OnlyConfiguration.trans {a b d : Channel} (h : OnlyConfiguration a b)
    (h' : OnlyConfiguration b d) : OnlyConfiguration a d := by
  unfold OnlyConfiguration at *; rw [h', h]

theorem onlyConfiguration_writeCsr (ch : Channel) (v : Word) :
    OnlyConfiguration ch (ch.writeCsr v) := rfl
theorem onlyConfiguration_writeDiv (ch : Channel) (v : Word) :
    OnlyConfiguration ch (ch.writeDiv v) := rfl
theorem onlyConfiguration_writeCc (ch : Channel) (v : Word) :
    OnlyConfiguration ch (ch.writeCc v) := rfl
theorem onlyConfiguration_writeTop (ch : Channel) (v : Word) :
    OnlyConfiguration ch (ch.writeTop v) := rfl

theorem KeepsOtherChannels.refl (c : ChannelId) (s : State) : KeepsOtherChannels c s s :=
  fun _ _ => rfl

theorem KeepsOtherChannels.trans {c : ChannelId} {s t u : State} (h : KeepsOtherChannels c s t)
    (h' : KeepsOtherChannels c t u) : KeepsOtherChannels c s u :=
  fun d hd => (h' d hd).trans (h d hd)

theorem KeepsInterrupts.refl (s : State) : KeepsInterrupts s s := ⟨rfl, rfl, rfl⟩

theorem KeepsInterrupts.trans {s t u : State} (h : KeepsInterrupts s t) (h' : KeepsInterrupts t u) :
    KeepsInterrupts s u :=
  ⟨h'.1.trans h.1, h'.2.1.trans h.2.1, h'.2.2.trans h.2.2⟩

/-- Replacing one channel keeps the others and the interrupt registers. -/
theorem keeps_setChan (s : State) (c : ChannelId) (ch : Channel) :
    KeepsOtherChannels c s (s.setChan c ch) ∧ KeepsInterrupts s (s.setChan c ch) :=
  ⟨fun d hd => by simp [State.chan_setChan, hd.symm], rfl, rfl, rfl⟩

/-! ### The channel's bit of a peripheral-wide register -/

theorem channelBit_getLsbD (c d : ChannelId) : (channelBit c).getLsbD d.val = (d == c) := by
  revert c d; decide

theorem wideWithBits_getLsbD (t : BitVec 8) (mask : BitVec 8) (d : ChannelId) :
    ((wideWithBits (t.setWidth 32) mask).setWidth 8 : BitVec 8).getLsbD d.val =
      (t.getLsbD d.val || mask.getLsbD d.val) := by
  simp [wideWithBits, d.isLt]

theorem wideWithoutBits_getLsbD (t : BitVec 8) (mask : BitVec 8) (d : ChannelId) :
    ((wideWithoutBits (t.setWidth 32) mask).setWidth 8 : BitVec 8).getLsbD d.val =
      (t.getLsbD d.val && !mask.getLsbD d.val) := by
  simp [wideWithoutBits, d.isLt]

end Sys2Proof.Machine
end

