-- ==== Sys2Proof/Laws/Sequencer.lean ====
section
/-! SUPPORT. The sequencers and the running of an operation: which sequencer runs, how a CPU turn of an
operation unrolls, and the one induction over its micro-steps that every frame and invariant uses. -/

namespace Sys2Proof.Machine

open Sys2Proof

/-! ### Which sequencer runs -/

namespace State

theorem ctx_congr {s t : State} (hf : t.seqFg = s.seqFg) (hi : t.seqIrq = s.seqIrq) :
    t.ctx = s.ctx := by
  unfold State.ctx; rw [hf, hi]

theorem seq_congr {s t : State} (hf : t.seqFg = s.seqFg) (hi : t.seqIrq = s.seqIrq)
    (hh : t.seqHandler = s.seqHandler) : t.seq = s.seq := by
  unfold State.seq; rw [ctx_congr hf hi, hf, hi, hh]

theorem currentDispatch_congr {s t : State} (hf : t.seqFg = s.seqFg) (hi : t.seqIrq = s.seqIrq) :
    t.currentDispatch = s.currentDispatch := by
  unfold State.currentDispatch; rw [hf, hi]

@[simp] theorem ctx_regWrite (s : State) (r : Reg) (v : Word) : (s.regWrite r v).ctx = s.ctx :=
  ctx_congr (by simp) (by simp)

@[simp] theorem seq_regWrite (s : State) (r : Reg) (v : Word) : (s.regWrite r v).seq = s.seq :=
  seq_congr (by simp) (by simp) (by simp)

@[simp] theorem ctx_beginTurn (s : State) (rest : List Turn) (more : Nat) :
    (s.beginTurn rest more).ctx = s.ctx := rfl

@[simp] theorem seq_beginTurn (s : State) (rest : List Turn) (more : Nat) :
    (s.beginTurn rest more).seq = s.seq := rfl

/-- The three places a context is read off. -/
theorem ctx_cases (s : State) :
    (s.ctx = .foreground ∧ s.seqIrq = .idle ∧ ∀ d, s.seqFg = .dispatch d → d.phase ≠ .handler) ∨
    (s.ctx = .interrupt ∧ ∃ d, s.seqIrq = .dispatch d ∧ d.phase ≠ .handler) ∨
    (s.ctx = .handler ∧ ∃ d, s.currentDispatch = some d ∧ d.phase = .handler) := by
  unfold State.ctx State.currentDispatch
  cases hi : s.seqIrq with
  | dispatch d => by_cases hp : d.phase = .handler <;> simp [hp]
  | idle =>
    cases hf : s.seqFg with
    | idle => simp
    | inOp i k t => simp
    | dispatch d => by_cases hp : d.phase = .handler <;> simp [hp]

theorem seqIrq_of_foreground {s : State} (h : s.ctx = .foreground) : s.seqIrq = .idle := by
  rcases s.ctx_cases with ⟨_, hi, _⟩ | ⟨hc, _⟩ | ⟨hc, _⟩ <;> simp_all

theorem seq_of_foreground {s : State} (h : s.ctx = .foreground) : s.seq = s.seqFg := by
  simp [State.seq, h]

theorem seq_of_handler {s : State} (h : s.ctx = .handler) : s.seq = s.seqHandler := by
  simp [State.seq, h]

/-- A sequencer with nothing but an ordinary operation in it is the foreground's. -/
theorem ctx_foreground {s : State} (hi : s.seqIrq = .idle) (hf : s.seqFg.inDispatch = false) :
    s.ctx = .foreground := by
  unfold State.ctx
  rw [hi]
  cases h : s.seqFg <;> simp_all [Seq.inDispatch]

/-! ### A sequencer put elsewhere -/

theorem setSeq_of_foreground {s : State} (h : s.ctx = .foreground) (q : Seq) :
    s.setSeq q = { s with seqFg := q } := by
  simp [State.setSeq, h]

theorem setSeq_of_handler {s : State} (h : s.ctx = .handler) (q : Seq) :
    s.setSeq q = { s with seqHandler := q } := by
  simp [State.setSeq, h]

/-- Suspending an operation does not change which sequencer runs. -/
theorem ctx_setSeq_inOp {s : State} (h : s.ctx ≠ .interrupt) (i : Instr) (k : Nat) (t : Tmp) :
    (s.setSeq (.inOp i k t)).ctx = s.ctx := by
  rcases hc : s.ctx with _ | _ | _
  · have hi := seqIrq_of_foreground hc
    rw [setSeq_of_foreground hc]
    exact ctx_foreground (s := { s with seqFg := .inOp i k t }) hi rfl
  · exact absurd hc h
  · rw [setSeq_of_handler hc, ← hc]; rfl

/-- The sequencer that runs stands where the operation was suspended. -/
theorem seq_setSeq_inOp {s : State} (h : s.ctx ≠ .interrupt) (i : Instr) (k : Nat) (t : Tmp) :
    (s.setSeq (.inOp i k t)).seq = .inOp i k t := by
  have hx := ctx_setSeq_inOp h i k t
  rcases hc : s.ctx with _ | _ | _
  · rw [seq_of_foreground (hx.trans hc), setSeq_of_foreground hc]
  · exact absurd hc h
  · rw [seq_of_handler (hx.trans hc), setSeq_of_handler hc]

/-- In the foreground no handler returns. -/
theorem handlerReturn_of_ne {s : State} (h : s.ctx ≠ .handler) : s.handlerReturn = s := by
  unfold State.handlerReturn
  rcases hc : s.ctx with _ | _ | _ <;> simp_all

/-- The handler's last operation leaves the dispatch before step 2b. -/
theorem handlerReturn_of_handler {s : State} (h : s.ctx = .handler) (hw : s.handlerWords = [])
    (he : s.handlerEnd = .returns) {d : Dispatch} (hd : s.currentDispatch = some d) :
    s.handlerReturn = s.setDispatch { d with phase := .clearRaw } := by
  simp [State.handlerReturn, h, hw, he, hd]

/-- A response in the foreground. -/
theorem respond_of_foreground {s : State} (h : s.ctx = .foreground) (a : Answer) :
    s.respond a =
      { s with seqFg := .idle, responses := s.responses ++ [(.foreground, a.word)] } := by
  have hi := seqIrq_of_foreground h
  have hx : ({ s with seqFg := .idle, responses := s.responses ++ [(.foreground, a.word)] } : State).ctx =
      .foreground :=
    ctx_foreground hi rfl
  unfold State.respond
  rw [setSeq_of_foreground (s := { s with responses := s.responses ++ [(s.ctx, a.word)] }) h, h]
  exact handlerReturn_of_ne (by rw [hx]; decide)

/-- A response of the handler's operation leaves the handler's sequencer idle. -/
theorem respond_seqHandler_of_handler {s : State} (h : s.ctx = .handler) (a : Answer) :
    (s.respond a).seqHandler = .idle := by
  unfold State.respond
  rw [setSeq_of_handler (s := { s with responses := s.responses ++ [(s.ctx, a.word)] }) h]
  simp

/-- A handler that has commands left, or never returns, stays in the handler phase. -/
theorem handlerReturn_of_stays {s : State} (h : s.handlerWords ≠ [] ∨ s.handlerEnd ≠ .returns) :
    s.handlerReturn = s := by
  unfold State.handlerReturn
  split
  · rcases h with h | h <;> exact absurd ‹_› h
  · rfl

/-- The dispatch in progress is where it was put. -/
@[simp] theorem currentDispatch_setDispatch (s : State) (d : Dispatch) :
    (s.setDispatch d).currentDispatch = some d := by
  unfold State.setDispatch State.currentDispatch
  cases hi : s.seqIrq <;> simp

/-- A response in the handler, before the handler returns. -/
theorem respond_of_handler {s : State} (h : s.ctx = .handler) (a : Answer) :
    s.respond a =
      ({ s with
        seqHandler := .idle, responses := s.responses ++ [(.handler, a.word)] } : State).handlerReturn := by
  unfold State.respond
  rw [setSeq_of_handler (s := { s with responses := s.responses ++ [(s.ctx, a.word)] }) h, h]

/-- The return from a dispatch leaves the interrupt context idle. -/
theorem respond_seqIrq_of_interrupt {s : State} (h : s.ctx = .interrupt) (a : Answer) :
    (s.respond a).seqIrq = .idle := by
  have hs : ({ s with responses := s.responses ++ [(s.ctx, a.word)] } : State).setSeq .idle =
      { s with responses := s.responses ++ [(s.ctx, a.word)], seqIrq := .idle } := by
    have hx : ({ s with responses := s.responses ++ [(s.ctx, a.word)] } : State).ctx = .interrupt := h
    simp only [State.setSeq]
    rw [hx]
  unfold State.respond
  rw [hs]
  unfold State.handlerReturn
  split
  · simp [State.setDispatch]
  · rfl

end State

/-- An operation that responds has finished. -/
theorem finished_respond {s u : State} (a : Answer) (hc : u.ctx = s.ctx)
    (hr : u.responses = s.responses) : Finished s (u.respond a) a := by
  refine ⟨by simp [hr, hc], fun h => ?_, fun h => ?_, fun h => ?_⟩
  · rw [State.respond_of_foreground (hc.trans h)]
  · exact State.respond_seqHandler_of_handler (hc.trans h) a
  · exact State.respond_seqIrq_of_interrupt (hc.trans h) a

/-! ### A CPU turn of an operation -/

section Unroll

variable {P : Type} {suspend : P → State → State} {body : P → State → Micro P} {n : Nat} {p q : P}
  {s t : State}

theorem runMicros_next_zero (h : body p s = .next q t) :
    runMicros suspend body 0 p s = suspend q t := by
  simp [runMicros, h]

theorem runMicros_next_succ (h : body p s = .next q t) :
    runMicros suspend body (n + 1) p s = runMicros suspend body n q t := by
  simp [runMicros, h]

theorem runMicros_yield (h : body p s = .yield q t) :
    runMicros suspend body n p s = suspend q t := by
  cases n <;> simp [runMicros, h]

theorem runMicros_done (h : body p s = .done t) : runMicros suspend body n p s = t := by
  cases n <;> simp [runMicros, h]

/-- The induction over the micro-steps of a turn: `I` holds before each, and the turn ends in `Q`. -/
theorem runMicros_induct {I : P → State → Prop} {Q : State → Prop}
    (hnext : ∀ p s q t, I p s → body p s = .next q t → I q t)
    (hyield : ∀ p s q t, I p s → body p s = .yield q t → Q (suspend q t))
    (hdone : ∀ p s t, I p s → body p s = .done t → Q t)
    (hsuspend : ∀ p s, I p s → Q (suspend p s)) :
    ∀ n p s, I p s → Q (runMicros suspend body n p s) := by
  intro n
  induction n with
  | zero =>
    intro p s h
    cases hb : body p s with
    | next q t => rw [runMicros_next_zero hb]; exact hsuspend q t (hnext p s q t h hb)
    | yield q t => rw [runMicros_yield hb]; exact hyield p s q t h hb
    | done t => rw [runMicros_done hb]; exact hdone p s t h hb
  | succ n ih =>
    intro p s h
    cases hb : body p s with
    | next q t => rw [runMicros_next_succ hb]; exact ih q t (hnext p s q t h hb)
    | yield q t => rw [runMicros_yield hb]; exact hyield p s q t h hb
    | done t => rw [runMicros_done hb]; exact hdone p s t h hb

end Unroll

/-- The state a micro-step leaves. -/
def Micro.state {P : Type} : Micro P → State
  | .next _ s => s
  | .yield _ s => s
  | .done s => s

@[simp] theorem Micro.state_next {P : Type} (p : P) (s : State) : (Micro.next p s).state = s := rfl
@[simp] theorem Micro.state_yield {P : Type} (p : P) (s : State) : (Micro.yield p s).state = s := rfl
@[simp] theorem Micro.state_done {P : Type} (s : State) : (Micro.done s : Micro P).state = s := rfl

/-- A property of the state that every micro-step and every suspension keeps is kept by a turn. -/
theorem runMicros_keeps {P : Type} {suspend : P → State → State} {body : P → State → Micro P}
    {R : State → Prop} (hbody : ∀ p s, R s → R (body p s).state)
    (hsuspend : ∀ p s, R s → R (suspend p s)) (n : Nat) (p : P) (s : State) (h : R s) :
    R (runMicros suspend body n p s) :=
  runMicros_induct (I := fun _ s => R s) (Q := R)
    (fun p s q t h hb => by have := hbody p s h; rwa [hb] at this)
    (fun p s q t h hb => by have := hbody p s h; rw [hb] at this; exact hsuspend q t this)
    (fun p s t h hb => by have := hbody p s h; rwa [hb] at this)
    hsuspend n p s h

/-- The same for an operation. -/
theorem runOp_keeps {i : Instr} {body : OpBody} {R : State → Prop}
    (hbody : ∀ k t s, R s → R (body k t s).state) (hseq : ∀ s q, R s → R (s.setSeq q)) {s : State}
    (h : R s) : R (runOp i body s) := by
  unfold runOp
  split
  · exact runMicros_keeps (fun p s hs => hbody p.1 p.2 s hs) (fun p s hs => hseq s _ hs) _ _ _ h
  · exact h

/-- An idle sequencer accepts the operation at its micro-step 1. -/
theorem runOp_of_accepts {s : State} (h : s.Accepts) (i : Instr) (body : OpBody) :
    runOp i body s =
      runMicros (suspendOp i) (fun p s => body p.1 p.2 s) s.quantum (1, Tmp.zero) s := by
  simp [runOp, h.2, Seq.place]

/-- A sequencer inside the operation goes on where it stands. -/
theorem runOp_of_inside {s : State} {i : Instr} {k : Nat} {t : Tmp} (h : s.seq = .inOp i k t)
    (body : OpBody) :
    runOp i body s = runMicros (suspendOp i) (fun p s => body p.1 p.2 s) s.quantum (k, t) s := by
  simp [runOp, h, Seq.place]

end Sys2Proof.Machine
end

