-- ==== Sys2Proof/Laws/Bodies.lean ====
section
/-! SUPPORT. The bodies that several operations share: what a whole turn of each does, and what every
micro-step of each keeps. -/

namespace Sys2Proof.Machine

open Sys2Proof

/-! ### A whole turn -/

section Whole

variable {s : State} {i : Instr}

theorem runOp_rmwBody (h : s.Accepts) (hq : 2 ≤ s.quantum) (r : Reg) (f : Word → Word) :
    runOp i (rmwBody r f) s = (s.regWrite r (f (s.regRead r))).respond (.ok 0) := by
  rw [runOp_of_accepts h]
  obtain ⟨n, hn⟩ := Nat.exists_eq_add_of_le' hq
  simp [hn, runMicros, rmwBody, readTo, writeTo, answer]
  cases n <;> simp [runMicros]

theorem runOp_writeBody (h : s.Accepts) (hq : 1 ≤ s.quantum) (r : Reg) (v : Word) :
    runOp i (writeBody r v) s = (s.regWrite r v).respond (.ok 0) := by
  rw [runOp_of_accepts h]
  obtain ⟨n, hn⟩ := Nat.exists_eq_add_of_le' hq
  simp [hn, runMicros, writeBody, writeTo, answer]
  cases n <;> simp [runMicros]

theorem runOp_readBody (h : s.Accepts) (hq : 1 ≤ s.quantum) (r : Reg) (f : Word → BitVec 48) :
    runOp i (readBody r f) s = s.respond (.ok (f (s.regRead r))) := by
  rw [runOp_of_accepts h]
  obtain ⟨n, hn⟩ := Nat.exists_eq_add_of_le' hq
  simp [hn, runMicros, readBody, readTo, answer]
  cases n <;> simp [runMicros]

theorem runOp_pureBody (h : s.Accepts) (hq : 1 ≤ s.quantum) (value : BitVec 48) :
    runOp i (pureBody value) s = s.respond (.ok value) := by
  rw [runOp_of_accepts h]
  obtain ⟨n, hn⟩ := Nat.exists_eq_add_of_le' hq
  simp [hn, runMicros, pureBody, goto, answer]
  cases n <;> simp [runMicros]

/-- A poll that reads its request bit set stays in its loop, however long the turn is, and changes nothing
but the place (R142 and R143, step 4). -/
theorem runOp_handshakeBody_pending {c : ChannelId} {request : Word → Word} {pending : Word → Bool}
    (hp : pending (s.regRead (.csr c)) = true) {k : Nat} {tmp : Tmp} (hs : s.seq = .inOp i k tmp)
    (hk : k = 3 ∨ (k = 4 ∧ pending tmp.word = true)) :
    ∃ j u, (j = 3 ∨ (j = 4 ∧ pending u.word = true)) ∧
      runOp i (handshakeBody c request pending) s = s.setSeq (.inOp i j u) := by
  rw [runOp_of_inside hs]
  refine runMicros_induct
    (I := fun (p : Nat × Tmp) u => u = s ∧ (p.1 = 3 ∨ (p.1 = 4 ∧ pending p.2.word = true)))
    (Q := fun t => ∃ j u, (j = 3 ∨ (j = 4 ∧ pending u.word = true)) ∧ t = s.setSeq (.inOp i j u))
    ?_ ?_ ?_ ?_ _ (k, tmp) _ ⟨rfl, hk⟩
  · rintro ⟨k, t⟩ u q v ⟨rfl, h | ⟨h, ht⟩⟩ hb <;> dsimp only at h <;> subst h <;>
      simp only [handshakeBody, readTo, goto, Micro.next.injEq] at hb <;> obtain ⟨rfl, rfl⟩ := hb
    · exact ⟨rfl, .inr ⟨rfl, hp⟩⟩
    · dsimp only at ht; simp [ht]
  · rintro ⟨k, t⟩ u q v ⟨rfl, h | ⟨h, ht⟩⟩ hb <;> dsimp only at h <;> subst h <;> cases hb
  · rintro ⟨k, t⟩ u v ⟨rfl, h | ⟨h, ht⟩⟩ hb <;> dsimp only at h <;> subst h <;> cases hb
  · rintro ⟨k, t⟩ u ⟨rfl, h⟩
    exact ⟨k, t, h, rfl⟩

end Whole

/-! ### The body of each operation -/

/-- The body of an operation; `handle_interrupt` has a form of its own. -/
def bodyOf : Instr → Option OpBody
  | .mapPin pin =>
    some (pureBody (BitVec.ofNat 48 ((channelOf pin).val + (subPinOf pin).toNat * 2 ^ 8)))
  | .pinOf c sp => some (pureBody (BitVec.ofNat 48 (pinOrdinal c sp)))
  | .setEnabled c en => some (rmwBody (.csr c) fun t => csrWithEnable t en)
  | .setPhCorrect c ph => some (rmwBody (.csr c) fun t => csrWithPhCorrect t ph)
  | .setInvert c invA invB => some (rmwBody (.csr c) fun t => csrWithInvert t invA invB)
  | .setDivMode c mode => some (rmwBody (.csr c) fun t => csrWithDivMode t mode)
  | .setDivider c divInt divFrac => some (setDividerBody c divInt divFrac)
  | .setCompareA c value => some (rmwBody (.cc c) fun t => ccWithA t value)
  | .setCompareB c value => some (rmwBody (.cc c) fun t => ccWithB t value)
  | .setTop c value => some (writeBody (.top c) (value.setWidth 32))
  | .configure c snap => some (configureBody c snap)
  | .solveTopDivider freq => some (solveTopDividerBody freq)
  | .solveCompare top duty => some (solveCompareBody top duty)
  | .start pin freq duty => some (startBody pin freq duty)
  | .stop pin => some (stopBody pin)
  | .advancePhase c => some (handshakeBody c csrWithAdvance advancePending)
  | .retardPhase c => some (handshakeBody c csrWithRetard retardPending)
  | .getCounter c => some (readBody (.ctr c) fun t => (t.setWidth 16).setWidth 48)
  | .setCounter c value => some (writeBody (.ctr c) (value.setWidth 32))
  | .maskEnable bitmask => some (rmwBody .en fun t => wideWithBits t bitmask)
  | .enableInterrupt c => some (rmwBody .inte fun t => wideWithBits t (channelBit c))
  | .disableInterrupt c => some (rmwBody .inte fun t => wideWithoutBits t (channelBit c))
  | .forceInterrupt c => some (rmwBody .intf fun t => wideWithBits t (channelBit c))
  | .unforceInterrupt c => some (rmwBody .intf fun t => wideWithoutBits t (channelBit c))
  | .clearInterrupt c => some (writeBody .intr ((channelBit c).setWidth 32))
  | .setHandler handle => some (setHandlerBody handle)
  | .handleInterrupt => none
  | .getIntStatus => some (readBody .ints fun t => (t.setWidth 8).setWidth 48)
  | .readReg offset => some (readRegBody offset)

/-- `exec` runs the operation's body, or the dispatcher. -/
theorem exec_eq (i : Instr) (s : State) :
    exec i s = .next (match bodyOf i with
      | some body => runOp i body s
      | none => handleInterruptTurn s) := by
  cases i <;> rfl

theorem exec_of_bodyOf {i : Instr} {body : OpBody} (h : bodyOf i = some body) (s : State) :
    exec i s = .next (runOp i body s) := by
  rw [exec_eq, h]

theorem bodyOf_eq_none {i : Instr} (h : bodyOf i = none) : i = .handleInterrupt := by
  cases i <;> first | rfl | cases h

/-- The registers that an operation other than the dispatcher writes. -/
def writesReg : Instr → Reg → Bool
  | .setEnabled c _, r => r == .csr c
  | .setPhCorrect c _, r => r == .csr c
  | .setInvert c _ _, r => r == .csr c
  | .setDivMode c _, r => r == .csr c
  | .setDivider c _ _, r => r == .div c
  | .setCompareA c _, r => r == .cc c
  | .setCompareB c _, r => r == .cc c
  | .setTop c _, r => r == .top c
  | .configure c _, r => r == .csr c || r == .top c || r == .div c || r == .cc c
  | .start pin _ _, r =>
    r == .csr (channelOf pin) || r == .top (channelOf pin) || r == .div (channelOf pin) ||
      r == .cc (channelOf pin)
  | .stop pin, r => r == .csr (channelOf pin)
  | .advancePhase c, r => r == .csr c
  | .retardPhase c, r => r == .csr c
  | .setCounter c _, r => r == .ctr c
  | .maskEnable _, r => r == .en
  | .enableInterrupt _, r => r == .inte
  | .disableInterrupt _, r => r == .inte
  | .forceInterrupt _, r => r == .intf
  | .unforceInterrupt _, r => r == .intf
  | .clearInterrupt _, r => r == .intr
  | .mapPin _, _ => false
  | .pinOf _ _, _ => false
  | .solveTopDivider _, _ => false
  | .solveCompare _ _, _ => false
  | .getCounter _, _ => false
  | .setHandler _, _ => false
  | .handleInterrupt, _ => false
  | .getIntStatus, _ => false
  | .readReg _, _ => false

/-- What one micro-step of operation `i` can do to state `s`: nothing, one register write, the write of
the handler slot, a response, or a fault. -/
inductive MicroOf (i : Instr) (s : State) : Micro (Nat × Tmp) → Prop where
  | quiet (p : Nat × Tmp) : MicroOf i s (.next p s)
  | write (p : Nat × Tmp) (r : Reg) (v : Word) (h : writesReg i r = true) :
      MicroOf i s (.next p (s.regWrite r v))
  | handler (p : Nat × Tmp) (handle : Handle) (h : i = .setHandler handle) :
      MicroOf i s (.next p { s with handler := some handle })
  | respond (a : Answer) : MicroOf i s (.done (s.respond a))
  | raise (f : Fault) : MicroOf i s (.done (s.raise f))

section Cases

variable {i : Instr}

theorem rmwBody_cases {r : Reg} (h : writesReg i r = true) (f : Word → Word) (k : Nat) (t : Tmp)
    (s : State) : MicroOf i s (rmwBody r f k t s) := by
  unfold rmwBody
  split
  · exact .quiet _
  · exact .write _ _ _ h
  · exact .respond _

theorem writeBody_cases {r : Reg} (h : writesReg i r = true) (v : Word) (k : Nat) (t : Tmp)
    (s : State) : MicroOf i s (writeBody r v k t s) := by
  unfold writeBody
  split
  · exact .write _ _ _ h
  · exact .respond _

theorem readBody_cases (r : Reg) (f : Word → BitVec 48) (k : Nat) (t : Tmp) (s : State) :
    MicroOf i s (readBody r f k t s) := by
  unfold readBody
  split
  · exact .quiet _
  · exact .respond _

theorem pureBody_cases (value : BitVec 48) (k : Nat) (t : Tmp) (s : State) :
    MicroOf i s (pureBody value k t s) := by
  unfold pureBody
  split
  · exact .quiet _
  · exact .respond _

theorem handshakeBody_cases {c : ChannelId} (h : writesReg i (.csr c) = true) (f : Word → Word)
    (g : Word → Bool) (k : Nat) (t : Tmp) (s : State) : MicroOf i s (handshakeBody c f g k t s) := by
  unfold handshakeBody
  split
  · exact .quiet _
  · exact .write _ _ _ h
  · exact .quiet _
  · exact .quiet _
  · exact .respond _

theorem setDividerBody_cases (c : ChannelId) (divInt divFrac : BitVec 8) (k : Nat) (t : Tmp)
    (s : State) :
    MicroOf (.setDivider c divInt divFrac) s (setDividerBody c divInt divFrac k t s) := by
  unfold setDividerBody
  split
  · split
    · exact .respond _
    · exact .quiet _
  · exact .write _ _ _ (by simp [writesReg])
  · exact .respond _

theorem configureBody_cases (c : ChannelId) (snap : Snapshot) (k : Nat) (t : Tmp) (s : State) :
    MicroOf (.configure c snap) s (configureBody c snap k t s) := by
  unfold configureBody
  split <;> first
    | exact .respond _
    | exact .write _ _ _ (by simp [writesReg])
    | exact .quiet _

theorem queryClock_cases (k : Nat) (t : Tmp) (s : State) : MicroOf i s (queryClock k t s) := by
  unfold queryClock
  split
  · exact .raise _
  · exact .quiet _

theorem solveTopDividerBody_cases (freq : BitVec 32) (k : Nat) (t : Tmp) (s : State) :
    MicroOf i s (solveTopDividerBody freq k t s) := by
  unfold solveTopDividerBody
  split
  · split
    · exact .raise _
    · exact .quiet _
  · exact queryClock_cases _ _ _
  · split
    · exact .raise _
    · exact .quiet _
  · exact .quiet _
  · split
    · exact .respond _
    · exact .quiet _
  · split
    · exact .respond _
    · exact .quiet _
  · exact .respond _

theorem solveCompareBody_cases (top : BitVec 16) (duty : BitVec 32) (k : Nat) (t : Tmp) (s : State) :
    MicroOf i s (solveCompareBody top duty k t s) := by
  unfold solveCompareBody
  split
  · split
    · exact .raise _
    · exact .quiet _
  · split
    · split <;> exact .respond _
    · exact .quiet _
  · split <;> exact .respond _

theorem startBody_cases (pin : BitVec 8) (freq duty : BitVec 32) (k : Nat) (t : Tmp) (s : State) :
    MicroOf (.start pin freq duty) s (startBody pin freq duty k t s) := by
  unfold startBody
  split
  · exact .quiet _
  · split
    · exact .raise _
    · split
      · exact .raise _
      · exact .quiet _
  · split
    · exact .raise _
    · split
      · exact .raise _
      · exact .quiet _
  · split
    · exact .respond _
    · exact .quiet _
  · exact .write _ _ _ (by simp [writesReg])
  · exact .write _ _ _ (by simp [writesReg])
  · split
    · exact .respond _
    · exact .quiet _
  · exact .quiet _
  · exact .write _ _ _ (by simp [writesReg])
  · exact .quiet _
  · exact .write _ _ _ (by simp [writesReg])
  · exact .respond _

theorem stopBody_cases (pin : BitVec 8) (k : Nat) (t : Tmp) (s : State) :
    MicroOf (.stop pin) s (stopBody pin k t s) := by
  unfold stopBody
  split
  · exact .quiet _
  · exact .quiet _
  · exact .write _ _ _ (by simp [writesReg])
  · exact .respond _

theorem readRegBody_cases (offset : BitVec 8) (k : Nat) (t : Tmp) (s : State) :
    MicroOf i s (readRegBody offset k t s) := by
  unfold readRegBody
  split
  · split
    · exact .raise _
    · exact .quiet _
  · exact .respond _

theorem setHandlerBody_cases (handle : Handle) (k : Nat) (t : Tmp) (s : State) :
    MicroOf (.setHandler handle) s (setHandlerBody handle k t s) := by
  unfold setHandlerBody
  split
  · exact .handler _ _ rfl
  · exact .respond _

end Cases

/-- Whatever an operation's micro-step does is one of the five things of `MicroOf`. -/
theorem body_cases {i : Instr} {body : OpBody} (h : bodyOf i = some body) (k : Nat) (t : Tmp)
    (s : State) : MicroOf i s (body k t s) := by
  cases i <;> first | cases h; done | (injection h with h; subst h)
  case mapPin => exact pureBody_cases _ _ _ _
  case pinOf => exact pureBody_cases _ _ _ _
  case setEnabled => exact rmwBody_cases (by simp [writesReg]) _ _ _ _
  case setPhCorrect => exact rmwBody_cases (by simp [writesReg]) _ _ _ _
  case setInvert => exact rmwBody_cases (by simp [writesReg]) _ _ _ _
  case setDivMode => exact rmwBody_cases (by simp [writesReg]) _ _ _ _
  case setDivider => exact setDividerBody_cases _ _ _ _ _ _
  case setCompareA => exact rmwBody_cases (by simp [writesReg]) _ _ _ _
  case setCompareB => exact rmwBody_cases (by simp [writesReg]) _ _ _ _
  case setTop => exact writeBody_cases (by simp [writesReg]) _ _ _ _
  case configure => exact configureBody_cases _ _ _ _ _
  case solveTopDivider => exact solveTopDividerBody_cases _ _ _ _
  case solveCompare => exact solveCompareBody_cases _ _ _ _ _
  case start => exact startBody_cases _ _ _ _ _ _
  case stop => exact stopBody_cases _ _ _ _
  case advancePhase => exact handshakeBody_cases (by simp [writesReg]) _ _ _ _ _
  case retardPhase => exact handshakeBody_cases (by simp [writesReg]) _ _ _ _ _
  case getCounter => exact readBody_cases _ _ _ _ _
  case setCounter => exact writeBody_cases (by simp [writesReg]) _ _ _ _
  case maskEnable => exact rmwBody_cases (by simp [writesReg]) _ _ _ _
  case enableInterrupt => exact rmwBody_cases (by simp [writesReg]) _ _ _ _
  case disableInterrupt => exact rmwBody_cases (by simp [writesReg]) _ _ _ _
  case forceInterrupt => exact rmwBody_cases (by simp [writesReg]) _ _ _ _
  case unforceInterrupt => exact rmwBody_cases (by simp [writesReg]) _ _ _ _
  case clearInterrupt => exact writeBody_cases (by simp [writesReg]) _ _ _ _
  case setHandler => exact setHandlerBody_cases _ _ _ _
  case getIntStatus => exact readBody_cases _ _ _ _ _
  case readReg => exact readRegBody_cases _ _ _ _

/-- A property that the five things of `MicroOf` and a suspension keep is kept by a turn of the
operation. -/
theorem runOp_keeps_of_cases {i : Instr} {body : OpBody} (hb : bodyOf i = some body)
    {R : State → Prop}
    (hwrite : ∀ s r v, writesReg i r = true → R s → R (s.regWrite r v))
    (hhandler : ∀ s handle, i = .setHandler handle → R s → R { s with handler := some handle })
    (hrespond : ∀ s a, R s → R (s.respond a)) (hraise : ∀ s f, R s → R (s.raise f))
    (hseq : ∀ s q, R s → R (s.setSeq q)) {s : State} (h : R s) : R (runOp i body s) := by
  refine runOp_keeps (fun k t s hs => ?_) hseq h
  have hc := body_cases hb k t s
  revert hc
  generalize body k t s = m
  intro hc
  cases hc with
  | quiet p => exact hs
  | write p r v hr => exact hwrite _ _ _ hr hs
  | handler p handle hi => exact hhandler _ _ hi hs
  | respond a => exact hrespond _ _ hs
  | raise f => exact hraise _ _ hs

end Sys2Proof.Machine
end

