-- ==== Sys2Proof/Laws/Encoding.lean ====
section
/-! SUPPORT. The fields of a command word: the encoder's three parts read back, and every operand fits
its part. -/

namespace Sys2Proof

theorem commandWord_toNat {op tgt pl : Nat} (ho : op < 2 ^ 8) (ht : tgt < 2 ^ 8) (hp : pl < 2 ^ 80) :
    (commandWord op tgt pl).toNat = op * 2 ^ 88 + tgt * 2 ^ 80 + pl := by
  simp only [commandWord, BitVec.toNat_ofNat]
  omega

theorem opField_commandWord {op tgt pl : Nat} (ho : op < 2 ^ 8) (ht : tgt < 2 ^ 8)
    (hp : pl < 2 ^ 80) : opField (commandWord op tgt pl) = op := by
  simp only [opField, field, commandWord_toNat ho ht hp]
  omega

theorem tgtField_commandWord {op tgt pl : Nat} (ho : op < 2 ^ 8) (ht : tgt < 2 ^ 8)
    (hp : pl < 2 ^ 80) : tgtField (commandWord op tgt pl) = tgt := by
  simp only [tgtField, field, commandWord_toNat ho ht hp]
  omega

theorem plField_commandWord {op tgt pl : Nat} (ho : op < 2 ^ 8) (ht : tgt < 2 ^ 8)
    (hp : pl < 2 ^ 80) : plField (commandWord op tgt pl) = pl := by
  simp only [plField, field, commandWord_toNat ho ht hp]
  omega

/-- A word is its three parts. -/
theorem commandWord_fields (w : CmdWord) : commandWord (opField w) (tgtField w) (plField w) = w := by
  apply BitVec.eq_of_toNat_eq
  have := w.isLt
  simp only [commandWord, opField, tgtField, plField, field, BitVec.toNat_ofNat]
  omega

theorem opcode_lt (i : Instr) : i.opcode < 2 ^ 8 := by cases i <;> simp [Instr.opcode]

theorem divMode_toNat_lt (m : DivMode) : m.toNat < 4 := by cases m <;> decide

theorem payload_lt (s : Snapshot) : s.payload < 2 ^ 70 := by
  have h1 := Bool.toNat_lt s.en
  have h2 := Bool.toNat_lt s.phCorrect
  have h3 := Bool.toNat_lt s.invA
  have h4 := Bool.toNat_lt s.invB
  have h5 := divMode_toNat_lt s.divMode
  have h6 := s.divInt.isLt
  have h7 := s.divFrac.isLt
  have h8 := s.ccB.isLt
  have h9 := s.ccA.isLt
  have h10 := s.top.isLt
  simp only [Snapshot.payload]
  omega

/-- Every target fits 8 bits. -/
theorem target_lt (i : Instr) : i.target < 2 ^ 8 := by
  have hc : ∀ c : ChannelId, c.val < 2 ^ 8 := fun c => by have := c.isLt; omega
  cases i <;> simp only [Instr.target] <;> first | exact hc _ | exact BitVec.isLt _ | decide

theorem twoValues_lt {a b : Nat} (ha : a < 2 ^ 32) (hb : b < 2 ^ 32) : twoValues a b < 2 ^ 64 := by
  simp only [twoValues]; omega

theorem bool_toNat_lt (b : Bool) : b.toNat < 2 ^ 32 := by cases b <;> decide
theorem subPin_toNat_lt (sp : SubPin) : sp.toNat < 2 ^ 32 := by cases sp <;> decide
theorem value8_lt (v : BitVec 8) : v.toNat < 2 ^ 32 := by have := v.isLt; omega
theorem value16_lt (v : BitVec 16) : v.toNat < 2 ^ 32 := by have := v.isLt; omega

/-- Every payload fits 80 bits. -/
theorem instr_payload_lt (i : Instr) : i.payload < 2 ^ 80 := by
  have h32 : ∀ {v : Nat}, v < 2 ^ 32 → v < 2 ^ 80 := fun h => by omega
  have h64 : ∀ {v : Nat}, v < 2 ^ 64 → v < 2 ^ 80 := fun h => by omega
  cases i <;> simp only [Instr.payload]
  case pinOf c sp => exact h32 (subPin_toNat_lt sp)
  case setEnabled c en => exact h32 (bool_toNat_lt en)
  case setPhCorrect c ph => exact h32 (bool_toNat_lt ph)
  case setInvert c a b => exact h64 (twoValues_lt (bool_toNat_lt a) (bool_toNat_lt b))
  case setDivMode c m => have := divMode_toNat_lt m; omega
  case setDivider c a b => exact h64 (twoValues_lt (value8_lt a) (value8_lt b))
  case setCompareA c v => exact h32 (value16_lt v)
  case setCompareB c v => exact h32 (value16_lt v)
  case setTop c v => exact h32 (value16_lt v)
  case configure c s => have := payload_lt s; omega
  case solveTopDivider f => exact h32 f.isLt
  case solveCompare t d => exact h64 (twoValues_lt (value16_lt t) d.isLt)
  case start p f d => exact h64 (twoValues_lt f.isLt d.isLt)
  case setCounter c v => exact h32 (value16_lt v)
  case setHandler h => exact h32 h.isLt
  case readReg o => exact h32 (value8_lt o)
  all_goals decide

theorem opField_encode (i : Instr) : opField (encode i) = i.opcode :=
  opField_commandWord (opcode_lt i) (target_lt i) (instr_payload_lt i)

theorem tgtField_encode (i : Instr) : tgtField (encode i) = i.target :=
  tgtField_commandWord (opcode_lt i) (target_lt i) (instr_payload_lt i)

theorem plField_encode (i : Instr) : plField (encode i) = i.payload :=
  plField_commandWord (opcode_lt i) (target_lt i) (instr_payload_lt i)

/-- Decoding an encoded operation reads its opcode, target and payload. -/
theorem decode_encode (i : Instr) :
    decode (encode i) = decodeFields i.opcode i.target i.payload := by
  rw [decode, opField_encode, tgtField_encode, plField_encode]

/-! ### The operand readers on what the encoder writes -/

theorem channelOperand_val (c : ChannelId) : channelOperand c.val = .ok c := by
  simp [channelOperand, c.isLt]

theorem boolOperand_toNat (b : Bool) : boolOperand b.toNat = .ok b := by cases b <;> rfl

theorem subPinOperand_toNat (sp : SubPin) : subPinOperand sp.toNat = .ok sp := by cases sp <;> rfl

theorem divModeOperand_toNat (m : DivMode) : divModeOperand m.toNat = .ok m := by cases m <;> rfl

theorem value16Operand_toNat (v : BitVec 16) : value16Operand v.toNat = .ok v := by
  simp [value16Operand, v.isLt]

theorem dividerOperand_toNat (v : BitVec 8) : dividerOperand v.toNat = .ok v := by
  simp [dividerOperand, v.isLt]

theorem payloadTV_of_lt {v : Nat} (h : v < 2 ^ 32) : payloadTV v = .ok v := by
  have h1 : v / 2 ^ 32 = 0 := by omega
  have h2 : v % 2 ^ 32 = v := by omega
  rw [payloadTV, h1, h2]; rfl

theorem payloadTVV_twoValues {a b : Nat} (ha : a < 2 ^ 32) (hb : b < 2 ^ 32) :
    payloadTVV (twoValues a b) = .ok (a, b) := by
  unfold twoValues
  have h1 : (a * 2 ^ 32 + b) / 2 ^ 64 = 0 := by omega
  have h2 : (a * 2 ^ 32 + b) / 2 ^ 32 % 2 ^ 32 = a := by omega
  have h3 : (a * 2 ^ 32 + b) % 2 ^ 32 = b := by omega
  rw [payloadTVV, h1, h2, h3]; rfl

/-- The snapshot's payload reads back as the snapshot. -/
theorem payloadCFG_payload (s : Snapshot) : payloadCFG s.payload = .ok s := by
  have h1 := Bool.toNat_lt s.en
  have h2 := Bool.toNat_lt s.phCorrect
  have h3 := Bool.toNat_lt s.invA
  have h4 := Bool.toNat_lt s.invB
  have h5 := divMode_toNat_lt s.divMode
  have h6 := s.divInt.isLt
  have h7 := s.divFrac.isLt
  have h8 := s.ccB.isLt
  have h9 := s.ccA.isLt
  have h10 := s.top.isLt
  have hb : ∀ b : Bool, (b.toNat == 1) = b := fun b => by cases b <;> rfl
  have e0 : s.payload / 2 ^ 70 = 0 := by have := payload_lt s; omega
  have e1 : s.payload / 2 ^ 64 % 4 = s.divMode.toNat := by simp only [Snapshot.payload]; omega
  have e2 : s.payload / 2 ^ 69 % 2 = s.en.toNat := by simp only [Snapshot.payload]; omega
  have e3 : s.payload / 2 ^ 68 % 2 = s.phCorrect.toNat := by simp only [Snapshot.payload]; omega
  have e4 : s.payload / 2 ^ 67 % 2 = s.invA.toNat := by simp only [Snapshot.payload]; omega
  have e5 : s.payload / 2 ^ 66 % 2 = s.invB.toNat := by simp only [Snapshot.payload]; omega
  have e6 : BitVec.ofNat 8 (s.payload / 2 ^ 56) = s.divInt := by
    apply BitVec.eq_of_toNat_eq; simp only [Snapshot.payload, BitVec.toNat_ofNat]; omega
  have e7 : BitVec.ofNat 8 (s.payload / 2 ^ 48) = s.divFrac := by
    apply BitVec.eq_of_toNat_eq; simp only [Snapshot.payload, BitVec.toNat_ofNat]; omega
  have e8 : BitVec.ofNat 16 (s.payload / 2 ^ 32) = s.ccB := by
    apply BitVec.eq_of_toNat_eq; simp only [Snapshot.payload, BitVec.toNat_ofNat]; omega
  have e9 : BitVec.ofNat 16 (s.payload / 2 ^ 16) = s.ccA := by
    apply BitVec.eq_of_toNat_eq; simp only [Snapshot.payload, BitVec.toNat_ofNat]; omega
  have e10 : BitVec.ofNat 16 s.payload = s.top := by
    apply BitVec.eq_of_toNat_eq; simp only [Snapshot.payload, BitVec.toNat_ofNat]; omega
  simp only [payloadCFG, e0, e1, flagField, e2, e3, e4, e5, e6, e7, e8, e9, e10, hb,
    divModeOperand_toNat]
  rfl

/-! ### The rows that read two values, or a snapshot

The payload is a variable here, so that the kernel never evaluates it. -/

theorem decodeFields_setInvert (c : ChannelId) (invA invB : Bool) {pl : Nat}
    (h : payloadTVV pl = .ok (invA.toNat, invB.toNat)) :
    decodeFields 0x12 c.val pl = .ok (.setInvert c invA invB) := by
  show (channelOperand c.val >>= fun c => payloadTVV pl >>= fun v => _) = _
  rw [channelOperand_val, h]
  show (boolOperand invA.toNat >>= fun a => boolOperand invB.toNat >>= fun b => _) = _
  rw [boolOperand_toNat, boolOperand_toNat]; rfl

theorem decodeFields_setDivider (c : ChannelId) (divInt divFrac : BitVec 8) {pl : Nat}
    (h : payloadTVV pl = .ok (divInt.toNat, divFrac.toNat)) :
    decodeFields 0x14 c.val pl = .ok (.setDivider c divInt divFrac) := by
  show (channelOperand c.val >>= fun c => payloadTVV pl >>= fun v => _) = _
  rw [channelOperand_val, h]
  show (dividerOperand divInt.toNat >>= fun a => dividerOperand divFrac.toNat >>= fun b => _) = _
  rw [dividerOperand_toNat, dividerOperand_toNat]; rfl

theorem decodeFields_configure (c : ChannelId) (snap : Snapshot) {pl : Nat}
    (h : payloadCFG pl = .ok snap) : decodeFields 0x18 c.val pl = .ok (.configure c snap) := by
  show (channelOperand c.val >>= fun c => payloadCFG pl >>= fun v => _) = _
  rw [channelOperand_val, h]; rfl

theorem decodeFields_solveCompare (top : BitVec 16) (duty : BitVec 32) {pl : Nat}
    (h : payloadTVV pl = .ok (top.toNat, duty.toNat)) :
    decodeFields 0x21 0 pl = .ok (.solveCompare top duty) := by
  show (mustBeZero 0 >>= fun _ => payloadTVV pl >>= fun v => _) = _
  rw [h]
  show (value16Operand top.toNat >>= fun a => Except.ok (Instr.solveCompare a
    (BitVec.ofNat 32 duty.toNat))) = _
  rw [value16Operand_toNat, BitVec.ofNat_toNat, BitVec.setWidth_eq]; rfl

theorem decodeFields_start (pin : BitVec 8) (freq duty : BitVec 32) {pl : Nat}
    (h : payloadTVV pl = .ok (freq.toNat, duty.toNat)) :
    decodeFields 0x30 pin.toNat pl = .ok (.start pin freq duty) := by
  show (payloadTVV pl >>= fun v => _) = _
  rw [h]
  show Except.ok (Instr.start (BitVec.ofNat 8 pin.toNat) (BitVec.ofNat 32 freq.toNat)
    (BitVec.ofNat 32 duty.toNat)) = _
  simp only [BitVec.ofNat_toNat, BitVec.setWidth_eq]

end Sys2Proof
end

