-- ==== Sys2Proof/Laws/PerInstr.lean ====
section
/-! SUPPORT. The family `Fields`: the encoder puts the opcode, the target and the payload of each operation
where the decoder reads them (30_encoding.md R67). -/

namespace Sys2Proof.Laws.Fields

open Sys2Proof

/-- The three fields of the operation's command word. -/
def Statement (i : Instr) : Prop :=
  opField (encode i) = i.opcode ∧ tgtField (encode i) = i.target ∧ plField (encode i) = i.payload

theorem statement_holds (i : Instr) : Statement i :=
  ⟨opField_encode i, tgtField_encode i, plField_encode i⟩

theorem mapPin (pin : BitVec 8) :
    Statement (.mapPin pin) := statement_holds _

theorem pinOf (c : ChannelId) (sp : SubPin) :
    Statement (.pinOf c sp) := statement_holds _

theorem setEnabled (c : ChannelId) (en : Bool) :
    Statement (.setEnabled c en) := statement_holds _

theorem setPhCorrect (c : ChannelId) (ph : Bool) :
    Statement (.setPhCorrect c ph) := statement_holds _

theorem setInvert (c : ChannelId) (invA invB : Bool) :
    Statement (.setInvert c invA invB) := statement_holds _

theorem setDivMode (c : ChannelId) (mode : DivMode) :
    Statement (.setDivMode c mode) := statement_holds _

theorem setDivider (c : ChannelId) (divInt divFrac : BitVec 8) :
    Statement (.setDivider c divInt divFrac) := statement_holds _

theorem setCompareA (c : ChannelId) (value : BitVec 16) :
    Statement (.setCompareA c value) := statement_holds _

theorem setCompareB (c : ChannelId) (value : BitVec 16) :
    Statement (.setCompareB c value) := statement_holds _

theorem setTop (c : ChannelId) (value : BitVec 16) :
    Statement (.setTop c value) := statement_holds _

theorem configure (c : ChannelId) (snap : Snapshot) :
    Statement (.configure c snap) := statement_holds _

theorem solveTopDivider (freq : BitVec 32) :
    Statement (.solveTopDivider freq) := statement_holds _

theorem solveCompare (top : BitVec 16) (duty : BitVec 32) :
    Statement (.solveCompare top duty) := statement_holds _

theorem start (pin : BitVec 8) (freq duty : BitVec 32) :
    Statement (.start pin freq duty) := statement_holds _

theorem stop (pin : BitVec 8) :
    Statement (.stop pin) := statement_holds _

theorem advancePhase (c : ChannelId) :
    Statement (.advancePhase c) := statement_holds _

theorem retardPhase (c : ChannelId) :
    Statement (.retardPhase c) := statement_holds _

theorem getCounter (c : ChannelId) :
    Statement (.getCounter c) := statement_holds _

theorem setCounter (c : ChannelId) (value : BitVec 16) :
    Statement (.setCounter c value) := statement_holds _

theorem maskEnable (bitmask : BitVec 8) :
    Statement (.maskEnable bitmask) := statement_holds _

theorem enableInterrupt (c : ChannelId) :
    Statement (.enableInterrupt c) := statement_holds _

theorem disableInterrupt (c : ChannelId) :
    Statement (.disableInterrupt c) := statement_holds _

theorem forceInterrupt (c : ChannelId) :
    Statement (.forceInterrupt c) := statement_holds _

theorem unforceInterrupt (c : ChannelId) :
    Statement (.unforceInterrupt c) := statement_holds _

theorem clearInterrupt (c : ChannelId) :
    Statement (.clearInterrupt c) := statement_holds _

theorem setHandler (handle : Handle) :
    Statement (.setHandler handle) := statement_holds _

theorem handleInterrupt : Statement .handleInterrupt := statement_holds _

theorem getIntStatus : Statement .getIntStatus := statement_holds _

theorem readReg (offset : BitVec 8) :
    Statement (.readReg offset) := statement_holds _

end Sys2Proof.Laws.Fields
end

