-- ==== Sys2Proof/Laws/TimerArray.lean ====
section
/-! SUPPORT. What one count of a channel leaves: the channel it counts, the others, and the latch. -/

namespace Sys2Proof.Machine.State

open Sys2Proof

/-- The latch of a wrap. -/
theorem latchWrap_intr (s : State) (c : ChannelId) (wrapped : Bool) :
    (s.latchWrap c wrapped).intr = if wrapped then s.intr ||| channelBit c else s.intr := by
  cases wrapped <;> rfl

variable {s : State} {c : ChannelId}

/-- A count changes its own channel alone. -/
theorem chan_count (h : (s.chan c).divInt ≠ 0) (d : ChannelId) :
    (s.count c).chan d = if c = d then (s.chan c).counted s.counterStep else s.chan d := by
  rw [State.count, if_neg h, chan_latchWrap, chan_setChan]

/-- A count latches its wrap. -/
theorem count_intr (h : (s.chan c).divInt ≠ 0) :
    (s.count c).intr =
      if ((s.chan c).countResult s.counterStep).wrapped then s.intr ||| channelBit c else s.intr := by
  rw [State.count, if_neg h, latchWrap_intr, setChan_intr]

end Sys2Proof.Machine.State
end

