-- ==== Sys2Proof/Laws/Turns.lean ====
section
/-! SUPPORT. How a CPU turn ends, in three lemmas: a turn of an operation, a turn of the dispatcher, and
what either leaves outside the register bank. The frames and the invariants of a step cite these. -/

namespace Sys2Proof.Machine

open Sys2Proof

/-- `u` is `s` but for the register bank and the handler slot. -/
def SameButBank (s u : State) : Prop :=
  u = { s with chans := u.chans, intr := u.intr, inte := u.inte, intf := u.intf, handler := u.handler }

namespace SameButBank

theorem refl (s : State) : SameButBank s s := rfl

variable {s u : State}

theorem eq (h : SameButBank s u) :
    u = { s with
      chans := u.chans, intr := u.intr, inte := u.inte, intf := u.intf, handler := u.handler } := h

theorem regWrite (h : SameButBank s u) (r : Reg) (v : Word) : SameButBank s (u.regWrite r v) := by
  cases s; cases u
  simp only [SameButBank, State.mk.injEq] at h
  cases r <;> simp [SameButBank, State.regWrite, State.setChan, State.writeEnables, h]

theorem setHandler (h : SameButBank s u) (x : Option Handle) :
    SameButBank s { u with handler := x } := by
  cases s; cases u
  simp only [SameButBank, State.mk.injEq] at h
  simp [SameButBank, h]

theorem seqFg (h : SameButBank s u) : u.seqFg = s.seqFg := by rw [h.eq]
theorem seqIrq (h : SameButBank s u) : u.seqIrq = s.seqIrq := by rw [h.eq]
theorem seqHandler (h : SameButBank s u) : u.seqHandler = s.seqHandler := by rw [h.eq]
theorem handlerWords (h : SameButBank s u) : u.handlerWords = s.handlerWords := by rw [h.eq]
theorem handlerEnd (h : SameButBank s u) : u.handlerEnd = s.handlerEnd := by rw [h.eq]
theorem sysClkHz (h : SameButBank s u) : u.sysClkHz = s.sysClkHz := by rw [h.eq]
theorem port (h : SameButBank s u) : u.port = s.port := by rw [h.eq]
theorem handlerBehaviour (h : SameButBank s u) : u.handlerBehaviour = s.handlerBehaviour := by
  rw [h.eq]
theorem handlerScript (h : SameButBank s u) : u.handlerScript = s.handlerScript := by rw [h.eq]
theorem schedule (h : SameButBank s u) : u.schedule = s.schedule := by rw [h.eq]
theorem counterStep (h : SameButBank s u) : u.counterStep = s.counterStep := by rw [h.eq]
theorem firedLog (h : SameButBank s u) : u.firedLog = s.firedLog := by rw [h.eq]
theorem faultLog (h : SameButBank s u) : u.faultLog = s.faultLog := by rw [h.eq]
theorem responses (h : SameButBank s u) : u.responses = s.responses := by rw [h.eq]

theorem ctx (h : SameButBank s u) : u.ctx = s.ctx := State.ctx_congr h.seqFg h.seqIrq
theorem seq (h : SameButBank s u) : u.seq = s.seq := State.seq_congr h.seqFg h.seqIrq h.seqHandler
theorem currentDispatch (h : SameButBank s u) : u.currentDispatch = s.currentDispatch :=
  State.currentDispatch_congr h.seqFg h.seqIrq

end SameButBank

/-! ### A turn of an operation -/

/-- The ways a turn of operation `i` ends, with `u` the state before its end: suspended at a place, with
a response, or with a fault. -/
inductive TurnEnds (i : Instr) (u : State) : State → Prop where
  | suspended (k : Nat) (t : Tmp) : TurnEnds i u (u.setSeq (.inOp i k t))
  | responded (a : Answer) : TurnEnds i u (u.respond a)
  | raised (f : Fault) : TurnEnds i u (u.raise f)

/-- A turn of an operation writes registers the operation may write, and ends in one of three ways; or
the sequencer does not accept it and nothing happens. `R` is any relation that those register writes
keep. -/
theorem runOp_ends {i : Instr} {body : OpBody} (hb : bodyOf i = some body) (s : State)
    {R : State → Prop} (hs : R s)
    (hwrite : ∀ u r v, writesReg i r = true → R u → R (u.regWrite r v))
    (hhandler : ∀ u x, i = .setHandler x → R u → R { u with handler := some x }) :
    runOp i body s = s ∨ ∃ u, SameButBank s u ∧ R u ∧ TurnEnds i u (runOp i body s) := by
  unfold runOp
  cases s.seq.place i with
  | none => exact .inl rfl
  | some p =>
    refine .inr (runMicros_induct (I := fun _ u => SameButBank s u ∧ R u)
      (Q := fun t => ∃ u, SameButBank s u ∧ R u ∧ TurnEnds i u t) ?_ ?_ ?_ ?_ _ p s ⟨.refl s, hs⟩)
    · intro p u q t hu he
      have hc := body_cases hb p.1 p.2 u
      rw [he] at hc
      cases hc with
      | quiet => exact hu
      | write _ r v hr => exact ⟨hu.1.regWrite r v, hwrite _ _ _ hr hu.2⟩
      | handler _ x hx => exact ⟨hu.1.setHandler _, hhandler _ _ hx hu.2⟩
    · intro p u q t hu he
      have hc := body_cases hb p.1 p.2 u
      rw [he] at hc
      cases hc
    · intro p u t hu he
      have hc := body_cases hb p.1 p.2 u
      rw [he] at hc
      cases hc with
      | respond a => exact ⟨u, hu.1, hu.2, .responded a⟩
      | raise f => exact ⟨u, hu.1, hu.2, .raised f⟩
    · intro p u hu
      exact ⟨u, hu.1, hu.2, .suspended p.1 p.2⟩

/-- The same of `exec`, for every operation but `handle_interrupt`. -/
theorem exec_ends {i : Instr} {s t : State} (he : exec i s = .next t) (hi : i ≠ .handleInterrupt)
    {R : State → Prop} (hs : R s)
    (hwrite : ∀ u r v, writesReg i r = true → R u → R (u.regWrite r v))
    (hhandler : ∀ u x, i = .setHandler x → R u → R { u with handler := some x }) :
    t = s ∨ ∃ u, SameButBank s u ∧ R u ∧ TurnEnds i u t := by
  cases hb : bodyOf i with
  | none => exact absurd (bodyOf_eq_none hb) hi
  | some body =>
    rw [exec_of_bodyOf hb, Host.Outcome.next.injEq] at he
    subst he
    exact runOp_ends hb s hs hwrite hhandler

/-- The end of a turn touches no register, no input and no log of calls. -/
theorem TurnEnds.keeps {i : Instr} {u t : State} (h : TurnEnds i u t) :
    KeepsBank u t ∧ t.handler = u.handler ∧ t.sysClkHz = u.sysClkHz ∧ t.port = u.port ∧
      t.schedule = u.schedule ∧ t.handlerScript = u.handlerScript ∧
      t.handlerWords = u.handlerWords ∧ t.handlerEnd = u.handlerEnd ∧
      t.handlerBehaviour = u.handlerBehaviour ∧ t.counterStep = u.counterStep ∧
      t.firedLog = u.firedLog := by
  cases h <;> exact ⟨⟨fun d => by simp, by simp [KeepsInterrupts]⟩, by simp⟩

/-! ### A turn of the dispatcher -/

theorem nextPending_spec {snapshot : BitVec 8} {k : Nat} {c : ChannelId}
    (h : nextPending snapshot k = some c) : k ≤ c.val ∧ snapshot.getLsbD c.val = true := by
  have := List.find?_some h
  simpa using this

theorem nextPending_none {snapshot : BitVec 8} {k : Nat} (h : nextPending snapshot k = none)
    (c : ChannelId) (hk : k ≤ c.val) : snapshot.getLsbD c.val = false := by
  have := List.find?_eq_none.1 h c (List.mem_finRange c)
  simpa [hk] using this

/-- The dispatch goes to a channel of its snapshot, or before its response. -/
theorem Dispatch.from_legal (d : Dispatch) (k : Nat) : (d.from k).legal = true := by
  unfold Dispatch.from
  split
  · exact (nextPending_spec ‹_›).2
  · rfl

/-- What one micro-step of the dispatcher can do to state `s`. -/
inductive MicroOfDispatch (d : Dispatch) (s : State) : Micro Dispatch → Prop where
  | readStatus (h : d.phase = .readStatus) :
      MicroOfDispatch d s (.next ({ d with snapshot := (s.regRead .ints).setWidth 8 }.from 0) s)
  | unheard (h : d.phase = .notify) (hn : s.handler = none) :
      MicroOfDispatch d s (.next { d with phase := .clearRaw } s)
  | heard (h : d.phase = .notify) (x : Handle) (hx : s.handler = some x)
      (hc : s.handlerCall x d.chan = .silent) :
      MicroOfDispatch d s (.next { d with phase := .clearRaw } (s.recordCall x d.chan))
  | called (h : d.phase = .notify) (x : Handle) (hx : s.handler = some x)
      (hc : s.handlerCall x d.chan ≠ .silent) :
      MicroOfDispatch d s (.yield { d with phase := .handler }
        { s.recordCall x d.chan with
          handlerWords := (s.handlerCall x d.chan).words
          handlerEnd := (s.handlerCall x d.chan).ending })
  | wait (h : d.phase = .handler) : MicroOfDispatch d s (.yield d s)
  | clearRaw (h : d.phase = .clearRaw) :
      MicroOfDispatch d s (.next { d with phase := .unforceRead }
        (s.regWrite .intr ((channelBit d.chan).setWidth 32)))
  | unforceRead (h : d.phase = .unforceRead) :
      MicroOfDispatch d s (.next { d with phase := .unforceWrite, tmp := s.regRead .intf } s)
  | unforceWrite (h : d.phase = .unforceWrite) :
      MicroOfDispatch d s (.next (d.from (d.chan.val + 1))
        (s.regWrite .intf (wideWithoutBits d.tmp (channelBit d.chan))))
  | respond (h : d.phase = .respond) : MicroOfDispatch d s (.done (s.respond (.ok 0)))

theorem dispatchBody_cases (d : Dispatch) (s : State) : MicroOfDispatch d s (dispatchBody d s) := by
  unfold dispatchBody
  cases h : d.phase with
  | readStatus => exact .readStatus h
  | handler => exact .wait h
  | clearRaw => exact .clearRaw h
  | unforceRead => exact .unforceRead h
  | unforceWrite => exact .unforceWrite h
  | respond => exact .respond h
  | notify =>
    show MicroOfDispatch d s (notifyHandler d s)
    unfold notifyHandler
    split
    · exact .unheard h ‹_›
    · unfold runHandler
      split
      · exact .heard h _ ‹_› ‹_›
      · exact .called h _ ‹_› ‹_›

/-! ### The handler's turn -/

/-- What a silent handler's call is, for each of the three ways a handler's behaviour is given. -/
theorem State.HandlersSilent.call {s : State} (hs : s.HandlersSilent) (h : Handle) (c : ChannelId) :
    s.handlerCall h c = .silent := by
  unfold State.HandlersSilent at hs
  unfold State.handlerCall
  cases hb : s.handlerBehaviour with
  | scripted =>
    rw [hb] at hs
    cases hl : s.handlerScript with
    | nil => rfl
    | cons x xs => exact hs x (by simp [hl])
  | table rows =>
    rw [hb] at hs
    cases hf : rows.find? fun r => r.handle == h && r.chan == c with
    | none => simp only [hf]
    | some r => simpa only [hf] using hs r (List.mem_of_find?_eq_some hf)
  | parameter =>
    rw [hb] at hs
    exact hs h c s.view

/-- Handlers that issue nothing issue nothing in the next call either. -/
theorem State.HandlersSilent.recordCall {s : State} (hs : s.HandlersSilent) (h : Handle)
    (c : ChannelId) : (s.recordCall h c).HandlersSilent := by
  unfold State.HandlersSilent at *
  simp only [State.recordCall, State.scriptAfterCall]
  cases hb : s.handlerBehaviour <;> rw [hb] at hs
  · exact fun call hc => hs call (List.mem_of_mem_tail hc)
  · exact hs
  · exact hs

/-- The handler issues a command, returns to step 2b, or hangs. -/
theorem nextHandlerWord_none_iff (s : State) :
    s.nextHandlerWord = none ↔
      s.handlerWords = [] ∧ (s.handlerEnd = .returns ∨ s.handlerEnd = .again []) := by
  unfold State.nextHandlerWord
  cases hw : s.handlerWords with
  | cons w ws => simp
  | nil =>
    cases he : s.handlerEnd with
    | returns => simp
    | again ws => cases ws <;> simp

end Sys2Proof.Machine
end

