-- ==== Sys2Proof/Tests/Slice0.lean ====
section
/-! SUPPORT. Tests. The words, responses and register values expected are those of
spec/95_test_vectors.md and of the encoding examples of 30_encoding.md R76; each theorem names its
section. At the end one witness for each statement that has hypotheses. -/

namespace Sys2Proof.Tests

open Sys2Proof Sys2Proof.Machine

/-! ### Helpers -/

/-- The state an outcome goes on in; `s` where it stops. -/
def nextOr (s : State) : Host.Outcome State Fault Refusal → State
  | .next t => t
  | .fault _ => s
  | .refused _ => s

/-- One turn of an operation. -/
def after (i : Instr) (s : State) : State := nextOr s (exec i s)

/-- The reset state with the clock of 95_test_vectors.md. -/
def clocked : State := { State.reset with sysClkHz := some 125000000 }

/-- The reset state with another clock. -/
def clockedAt (hz : BitVec 32) : State := { State.reset with sysClkHz := some hz }

/-- The reset state with channel `c` changed. -/
def withChannel (c : ChannelId) (f : Channel → Channel) : State :=
  State.reset.setChan c (f Channel.reset)

/-- The reset state with `CSR` of channel `c` holding `v`. -/
def withCsr (c : ChannelId) (v : BitVec 8) : State := withChannel c fun ch => { ch with csr := v }

/-- The reset state with the interrupt registers holding the three values. -/
def withInterrupts (intr inte intf : BitVec 8) : State :=
  { State.reset with intr := intr, inte := inte, intf := intf }

/-- The words of the responses. -/
def words (s : State) : List RespWord := s.responses.map Prod.snd

/-- The word decodes to the operation, and the operation encodes to the word. -/
def codes (w : CmdWord) (i : Instr) : Bool := decide (decode w = .ok i ∧ encode i = w)

/-- The word is refused by the decoder. -/
def illegal (w : CmdWord) : Bool :=
  match decode w with
  | .ok _ => false
  | .error _ => true

/-! ### Well-formed operations: an ill-formed term for each check -/

theorem test_wellFormed_refuses_misaligned : (Instr.readReg 2).wellFormed = false := by decide
theorem test_wellFormed_refuses_beyond_bank : (Instr.readReg 0xB4).wellFormed = false := by decide
theorem test_wellFormed_accepts_last_register : (Instr.readReg 0xB0).wellFormed = true := by decide

/-! ### Decoding: a word written out from R67 to R70 for every operation -/

theorem test_decode_mapping :
    codes 0x010F00000000000000000000 (.mapPin 15) ∧ codes 0x020200000000000000000001 (.pinOf 2 .B) := by
  decide

theorem test_decode_control_setters :
    codes 0x100100000000000000000001 (.setEnabled 1 true) ∧
    codes 0x110100000000000000000001 (.setPhCorrect 1 true) ∧
    codes 0x120100000000000100000000 (.setInvert 1 true false) ∧
    codes 0x120100000000000000000001 (.setInvert 1 false true) ∧
    codes 0x130100000000000000000002 (.setDivMode 1 .risingEdge) ∧
    codes 0x130100000000000000000003 (.setDivMode 1 .fallingEdge) := by decide

theorem test_decode_value_setters :
    codes 0x140200000000001300000001 (.setDivider 2 19 1) ∧
    codes 0x150100000000000000001234 (.setCompareA 1 0x1234) ∧
    codes 0x16010000000000000000ABCD (.setCompareB 1 0xABCD) ∧
    codes 0x1701000000000000000003E7 (.setTop 1 999) := by decide

theorem test_decode_configure :
    codes 0x1805002402080040123400FF
      (.configure 5 ⟨true, false, false, true, .freeRunning, 2, 8, 0x1234, 0x0040, 0x00FF⟩) ∧
    codes 0x180200180408000001F403E8
      (.configure 2 ⟨false, true, true, false, .freeRunning, 4, 8, 500, 0, 1000⟩) := by decide

theorem test_decode_planner :
    codes 0x2000000000000000000003E8 (.solveTopDivider 1000) ∧
    codes 0x21000000000000030000C000 (.solveCompare 3 49152) ∧
    codes 0x210000000000FFFF00010000 (.solveCompare 65535 65536) := by decide

theorem test_decode_controller :
    codes 0x3004000001DCD6500000C000 (.start 4 31250000 49152) ∧
    codes 0x310400000000000000000000 (.stop 4) ∧
    codes 0x320300000000000000000000 (.advancePhase 3) ∧
    codes 0x330300000000000000000000 (.retardPhase 3) ∧
    codes 0x340100000000000000000000 (.getCounter 1) ∧
    codes 0x350100000000000000008000 (.setCounter 1 0x8000) ∧
    codes 0x360500000000000000000000 (.maskEnable 0b00000101) ∧
    codes 0x5000000000000000000000B0 (.readReg 0xB0) := by decide

theorem test_decode_interrupts :
    codes 0x400200000000000000000000 (.enableInterrupt 2) ∧
    codes 0x410200000000000000000000 (.disableInterrupt 2) ∧
    codes 0x420300000000000000000000 (.forceInterrupt 3) ∧
    codes 0x430300000000000000000000 (.unforceInterrupt 3) ∧
    codes 0x440100000000000000000000 (.clearInterrupt 1) ∧
    codes 0x45000000000000000000000A (.setHandler 0xA) ∧
    codes 0x460000000000000000000000 .handleInterrupt ∧
    codes 0x470000000000000000000000 .getIntStatus := by decide

/-- 95_test_vectors.md section 2.8. -/
theorem test_decode_refuses_illegal_words :
    illegal 0x000000000000000000000000 ∧ illegal 0x030000000000000000000000 ∧
    illegal 0x190000000000000000000000 ∧ illegal 0x370000000000000000000000 ∧
    illegal 0x480000000000000000000000 ∧ illegal 0xFF0000000000000000000000 ∧
    illegal 0x310400000000000000000001 ∧ illegal 0x470000000000000000000001 ∧
    illegal 0x100100010000000000000001 ∧ illegal 0x300400010000000700008000 ∧
    illegal 0x400800000000000000000000 ∧ illegal 0x130100000000000000000004 ∧
    illegal 0x450100000000000000000001 := by decide

/-- Sections 2.1, 2.2 and 2.5: operands out of range, and a must-be-zero bit of format `CFG`. -/
theorem test_decode_refuses_illegal_operands :
    illegal 0x020800000000000000000000 ∧ illegal 0x020200000000000000000002 ∧
    illegal 0x140200000000010000000000 ∧ illegal 0x170100000000000000010000 ∧
    illegal 0x100800000000000000000001 ∧ illegal 0x100100000000000000000002 ∧
    illegal 0x180000400000000000000000 ∧ illegal 0x500000000000000000000002 ∧
    illegal 0x5000000000000000000000B4 := by decide

/-- The rows of the opcode table tell its words apart: no two have a word in common. -/
theorem test_opcode_rows_disjoint :
    opcodeRows.Pairwise fun a b => a.pattern &&& b.mask ≠ b.pattern &&& a.mask := by decide

theorem test_table_word :
    decodeTableWord 96 0x310400000000000000000000 = some (.stop 4) ∧
    decodeTableWord 96 0x310400000000000000000001 = none := by decide

theorem test_text :
    (Instr.start 4 31250000 49152).operandTexts = ["4", "31250000", "49152"] ∧
    (Instr.pinOf 2 .B).operandTexts = ["2", "B"] := by decide

/-! ### A placed command runs as the first step after reset -/

theorem test_fetch_word :
    words (nextOr State.reset
      (step (State.reset.withFetchWord 96 0x010400000000000000000000))) = [0x0000000000020000] := by
  decide

/-- Section 2.8: a word that is no command records the fault, and the step after it stops. -/
theorem test_illegal_word_faults :
    (nextOr State.reset (step (State.reset.withFetchWord 96 0))).faultLog = [.illegalCommand] ∧
    step (nextOr State.reset (step (State.reset.withFetchWord 96 0))) = .fault .illegalCommand :=
  ⟨by decide, rfl⟩

/-! ### Pin mapping (section 2.1) -/

theorem test_map_pin :
    words (after (.mapPin 15) State.reset) = [0x0000000001070000] ∧
    words (after (.mapPin 20) State.reset) = [0x0000000000020000] ∧
    words (after (.mapPin 255) State.reset) = [0x0000000001070000] := by decide

theorem test_pin_of :
    words (after (.pinOf 2 .B) State.reset) = [0x0000000000050000] ∧
    words (after (.pinOf 7 .A) State.reset) = [0x00000000000E0000] := by decide

/-! ### Setters (section 2.2) -/

theorem test_set_enabled :
    (after (.setEnabled 1 true) State.reset).regRead (.csr 1) = 0x01 ∧
    (after (.setEnabled 1 true) State.reset).regRead .en = 0x02 := by decide

theorem test_set_ph_correct :
    (after (.setPhCorrect 1 true) State.reset).regRead (.csr 1) = 0x02 := by decide

theorem test_set_invert :
    (after (.setInvert 1 true false) State.reset).regRead (.csr 1) = 0x04 ∧
    (after (.setInvert 1 false true) State.reset).regRead (.csr 1) = 0x08 := by decide

/-- A pending request survives the read-modify-write. -/
theorem test_set_invert_keeps_request :
    (after (.setInvert 1 true false) (withCsr 1 0x81)).regRead (.csr 1) = 0x85 := by decide

theorem test_set_div_mode :
    (after (.setDivMode 1 .risingEdge) State.reset).regRead (.csr 1) = 0x20 ∧
    (after (.setDivMode 1 .fallingEdge) State.reset).regRead (.csr 1) = 0x30 := by decide

theorem test_set_divider :
    (after (.setDivider 2 19 1) State.reset).regRead (.div 2) = 0x131 ∧
    (after (.setDivider 2 255 15) State.reset).regRead (.div 2) = 0xFFF := by decide

theorem test_set_divider_ignores_malformed :
    (after (.setDivider 2 0 5) State.reset).regRead (.div 2) = 0x010 ∧
    (after (.setDivider 2 3 16) State.reset).regRead (.div 2) = 0x010 ∧
    words (after (.setDivider 2 3 16) State.reset) = [0] := by decide

theorem test_set_compare_a :
    (after (.setCompareA 1 0x1234) State.reset).regRead (.cc 1) = 0x00001234 := by decide

theorem test_set_compare_b :
    (after (.setCompareB 1 0xABCD) State.reset).regRead (.cc 1) = 0xABCD0000 := by decide

theorem test_set_top : (after (.setTop 1 999) State.reset).regRead (.top 1) = 0x03E7 := by decide

theorem test_configure :
    (after (.configure 5 ⟨true, false, false, true, .freeRunning, 2, 8, 0x1234, 0x0040, 0x00FF⟩)
        State.reset).chan 5 =
      { Channel.reset with csr := 0x09, div := 0x028, cc := 0x00401234, top := 0x00FF } := by decide

theorem test_configure_skips_malformed_divider :
    (after (.configure 0 ⟨false, false, false, false, .freeRunning, 0, 0, 100, 200, 999⟩)
        State.reset).chan 0 = { Channel.reset with cc := 0x00C80064, top := 0x03E7 } := by decide

/-! ### Planner (sections 2.3 and 2.4) -/

theorem test_solve_top_divider :
    words (after (.solveTopDivider 1908) clocked) = [0x00000001FFE80000] ∧
    words (after (.solveTopDivider 1000) clocked) = [0x00000E01FFFF0000] ∧
    words (after (.solveTopDivider 8) clocked) = [0x000006EEFFFF0000] ∧
    words (after (.solveTopDivider 7) clocked) = [0x0000000000000101] := by decide

theorem test_solve_top_divider_limits :
    solveTopDivider 65535 1 = some ⟨65534, 1, 0⟩ ∧
    solveTopDivider 16777215 1 = some ⟨65535, 255, 0⟩ ∧
    solveTopDivider 16777216 1 = none ∧
    solveTopDivider 4294967295 255 = none ∧
    solveTopDivider 4294967295 256 = some ⟨65535, 255, 15⟩ ∧
    solveTopDivider 4294967295 65536 = some ⟨65534, 1, 0⟩ ∧
    (after (.solveTopDivider 0) State.reset).faultLog = [.preconditionViolated .frequencyZero] ∧
    (after (.solveTopDivider 5) (clockedAt 0)).faultLog = [.clockAbsent] := by decide

theorem test_solve_compare :
    words (after (.solveCompare 3 49152) State.reset) = [0x0000000000030000] ∧
    words (after (.solveCompare 65535 65536) State.reset) = [0x0000000000000201] ∧
    (after (.solveCompare 3 65537) State.reset).faultLog =
      [.preconditionViolated .dutyAboveFullScale] := by decide

theorem test_solve_compare_corners :
    solveCompare 3 16383 = some 0 ∧ solveCompare 3 65536 = some 4 ∧ solveCompare 0 65536 = some 1 ∧
    solveCompare 65534 65536 = some 65535 ∧ solveCompare 65535 65535 = some 65535 ∧
    solveCompare 65512 32768 = some 32756 := by decide

/-! ### Channel controller (section 2.5) -/

theorem test_start :
    (after (.start 4 31250000 49152) clocked).chan 2 =
      { Channel.reset with csr := 0x01, cc := 0x00000003, top := 3 } ∧
    (after (.start 5 1000 16384) clocked).chan 2 =
      { Channel.reset with csr := 0x01, div := 0x01E, cc := 0x40000000 } := by decide

theorem test_start_failures :
    (after (.start 4 7 32768) clocked).chan 2 = Channel.reset ∧
    words (after (.start 4 1907 65536) clocked) = [0x0000000000000201] ∧
    (after (.start 4 0 0) clocked).faultLog = [.preconditionViolated .frequencyZero] ∧
    (after (.start 4 1000 65537) clocked).faultLog =
      [.preconditionViolated .dutyAboveFullScale] := by decide

theorem test_stop :
    (after (.stop 4) (withCsr 2 0x0B)).regRead (.csr 2) = 0x0A ∧
    (after (.stop 5) (withCsr 2 0x01)).regRead (.csr 2) = 0x00 := by decide

/-- Undivided, the handshake hangs in its poll with the request set (program P5). -/
theorem test_advance_phase_hangs :
    (after (.advancePhase 3) (withCsr 3 0x01)).regRead (.csr 3) = 0x81 ∧
    words (after (.advancePhase 3) (withCsr 3 0x01)) = [] := by decide

theorem test_retard_phase_hangs_stopped :
    (after (.retardPhase 3) State.reset).regRead (.csr 3) = 0x40 ∧
    words (after (.retardPhase 3) State.reset) = [] := by decide

theorem test_get_counter :
    words (after (.getCounter 1) (withChannel 1 fun ch => { ch with ctr := 0x8000 })) =
      [0x0000000080000000] := by decide

theorem test_set_counter :
    (after (.setCounter 1 0x8000) State.reset).regRead (.ctr 1) = 0x8000 := by decide

theorem test_mask_enable :
    (after (.maskEnable 0b00000101) State.reset).regRead (.csr 2) = 0x01 ∧
    (after (.maskEnable 0b00000010) (after (.maskEnable 0b00000101) State.reset)).regRead .en =
      0x07 := by decide

theorem test_read_reg :
    words (after (.readReg 0x10) State.reset) = [0x00000000FFFF0000] ∧
    words (after (.readReg 0x04) State.reset) = [0x0000000000100000] ∧
    (after (.readReg 0xB4) State.reset).faultLog = [.illegalCommand] := by decide

/-! ### Interrupt operations (section 2.6) -/

theorem test_enable_interrupt :
    (after (.enableInterrupt 0) (withInterrupts 0 0x04 0)).inte = 0x05 ∧
    (after (.enableInterrupt 2) (withInterrupts 0x04 0 0)).regRead .ints = 0x04 := by decide

theorem test_disable_interrupt :
    (after (.disableInterrupt 2) (withInterrupts 0 0x05 0)).inte = 0x01 := by decide

theorem test_force_interrupt :
    (after (.forceInterrupt 3) State.reset).regRead .ints = 0x08 ∧
    (after (.forceInterrupt 3) State.reset).irq = true := by decide

theorem test_unforce_interrupt :
    (after (.unforceInterrupt 3) (withInterrupts 0 0 0x08)).intf = 0 ∧
    (after (.unforceInterrupt 3) (withInterrupts 0 0 0x08)).irq = false := by decide

theorem test_clear_interrupt :
    (after (.clearInterrupt 1) (withInterrupts 0x06 0 0)).intr = 0x04 ∧
    (after (.clearInterrupt 2) (withInterrupts 0x04 0x04 0x04)).regRead .ints = 0x04 := by decide

theorem test_set_handler :
    (after (.setHandler 0xB) (after (.setHandler 0xA) State.reset)).handler = some 0xB := by decide

theorem test_get_int_status :
    words (after .getIntStatus (withInterrupts 0x06 0x02 0x80)) = [0x0000000000820000] := by decide

/-- Three pending channels, with the handler of section 2.6. -/
def threePending : State := { withInterrupts 0x24 0x24 0x01 with handler := some 0xA }

theorem test_handle_interrupt :
    (after .handleInterrupt threePending).firedLog = [(0xA, 0), (0xA, 2), (0xA, 5)] ∧
    (after .handleInterrupt threePending).intr = 0 ∧
    (after .handleInterrupt threePending).intf = 0 ∧
    (after .handleInterrupt threePending).inte = 0x24 := by decide

theorem test_handle_interrupt_leaves_disabled_latch :
    (after .handleInterrupt (withInterrupts 0x04 0 0)).intr = 0x04 ∧
    (after .handleInterrupt (withInterrupts 0x24 0x24 0x01)).firedLog = [] ∧
    (after .handleInterrupt (withInterrupts 0x24 0x24 0x01)).intr = 0 := by decide

/-! ### Timer array (section 2.7) -/

/-- Channel 3 enabled, `TOP = 2`, `CC.A = 1`, at a counter. -/
def ticking (csr : BitVec 8) (ctr : BitVec 16) (dir : Dir) : State :=
  withChannel 3 fun ch => { ch with csr := csr, ctr := ctr, top := 2, cc := 1, dir := dir }

theorem test_tick_counts :
    ((ticking 0x01 1 .up).event (.tick 3)).regRead (.ctr 3) = 2 ∧
    (ticking 0x01 0 .up).outA 3 = true ∧ (ticking 0x01 1 .up).outA 3 = false := by decide

theorem test_tick_wraps :
    ((ticking 0x01 2 .up).event (.tick 3)).regRead (.ctr 3) = 0 ∧
    ((ticking 0x01 2 .up).event (.tick 3)).intr = 0x08 := by decide

/-- Above the top the counter passes 65535 with no latch (D39). -/
theorem test_tick_above_top :
    ((ticking 0x01 0xFFFF .up).event (.tick 3)).regRead (.ctr 3) = 0 ∧
    ((ticking 0x01 0xFFFF .up).event (.tick 3)).intr = 0 := by decide

/-- The reference choice of the phase-correct step: reverse at the top, wrap at 0. -/
theorem test_tick_phase_correct :
    (((ticking 0x03 2 .up).event (.tick 3)).chan 3).ctr = 2 ∧
    (((ticking 0x03 2 .up).event (.tick 3)).chan 3).dir = .down ∧
    (((ticking 0x03 0 .down).event (.tick 3)).chan 3).dir = .up ∧
    ((ticking 0x03 0 .down).event (.tick 3)).intr = 0x08 := by decide

/-- The acknowledgements, with divider 2. -/
def requested (csr : BitVec 8) (ctr : BitVec 16) : State :=
  withChannel 3 fun ch => { ch with csr := csr, ctr := ctr, top := 2, div := 0x020 }

theorem test_adv_ack :
    ((requested 0x81 1).event (.advAck 3)).regRead (.csr 3) = 0x01 ∧
    ((requested 0x81 1).event (.advAck 3)).regRead (.ctr 3) = 2 ∧
    ((requested 0x81 2).event (.advAck 3)).regRead (.ctr 3) = 0 ∧
    ((requested 0x81 2).event (.advAck 3)).intr = 0x08 := by decide

theorem test_ret_ack :
    ((requested 0x41 1).event (.retAck 3)).regRead (.csr 3) = 0x01 ∧
    ((requested 0x41 1).event (.retAck 3)).regRead (.ctr 3) = 1 ∧
    (requested 0x80 1).event (.advAck 3) = requested 0x80 1 := by decide

theorem test_take_irq :
    ((withInterrupts 0 0 0x02).event .takeIrq).seqIrq = .dispatch Dispatch.start ∧
    ((withInterrupts 0x02 0 0).event .takeIrq).seqIrq = .idle := by decide

/-- Program P7, step 4: the second micro-step writes from the word read before the dispatcher came. -/
theorem test_read_modify_write_race :
    (after (.forceInterrupt 0)
      { State.reset with
        seqFg := .inOp (.forceInterrupt 0) 2 { Tmp.zero with word := 0x02 } }).intf = 0x03 := by decide

/-! ### Witnesses: for each statement that has hypotheses, states and operands that meet them together,
for each clause at a boundary of its range -/

/-- The state in which the handler of channel 1 runs inside a dispatch of the interrupt context. -/
def inHandler : State :=
  { State.reset with
    seqIrq := .dispatch { snapshot := 0x02, chan := 1, phase := .handler, tmp := 0 } }

/-- The foreground is inside an operation. -/
def inOperation (i : Instr) (k : Nat) (t : Tmp) : State := { State.reset with seqFg := .inOp i k t }

/-- A dispatch of the interrupt context at a phase, channel 1 being processed. -/
def inDispatch (phase : DispatchPhase) : State :=
  { State.reset with seqIrq := .dispatch { snapshot := 0x02, chan := 1, phase := phase, tmp := 0x02 } }

/-- The next turn is the one given. -/
def scheduled (tr : Turn) (s : State) : State := { s with schedule := [tr] }

/-- A CPU turn of one micro-step. -/
def oneMicro (s : State) : State := { s with quantum := 0 }

/-- The handler with handle `0xA` forces channel 0 in each of its calls for channel 1. -/
def forcing : HandlerBehaviour :=
  .table [⟨0xA, 1, { words := [0x420000000000000000000000], ending := .returns }⟩]

/-- Called by the dispatcher, a handler with commands works in its own sequencer, at every call again;
for another channel the same handler issues nothing. -/
theorem test_handler_table :
    (after .handleInterrupt
      { inDispatch .notify with handler := some 0xA, handlerBehaviour := forcing }).ctx = .handler ∧
    (after .handleInterrupt
      { inDispatch .notify with handler := some 0xA, handlerBehaviour := forcing }).handlerWords =
        [0x420000000000000000000000] ∧
    (after .handleInterrupt
      { threePending with handlerBehaviour := forcing }).intf = 0 := by decide

/-- The response of the handler's last command returns to the dispatcher's step 2b (R226). -/
theorem test_handler_returns :
    (after (.forceInterrupt 0) inHandler).currentDispatch =
      some { snapshot := 0x02, chan := 1, phase := .clearRaw, tmp := 0 } ∧
    (after (.forceInterrupt 0) { inHandler with handlerWords := [0] }).ctx = .handler := by decide

/-- A handler that never returns hangs the dispatch (R226). -/
theorem test_handler_never_returns :
    (nextOr State.reset (step { inHandler with handlerEnd := .again [] })).ctx = .handler ∧
    (nextOr State.reset (step
      { inHandler with handlerEnd := .again [0x420000000000000000000000] })).intf = 0x01 ∧
    (nextOr State.reset (step
      { inHandler with handlerEnd := .again [0x420000000000000000000000] })).ctx = .handler := by decide

theorem reset_accepts : State.reset.Accepts := ⟨by decide, by decide⟩
theorem handler_accepts : inHandler.Accepts := ⟨by decide, by decide⟩
theorem clocked_accepts : clocked.Accepts := ⟨by decide, by decide⟩

theorem witness_DecodeOfEncodeIsIdentity : (Instr.readReg 0xB0).WellFormed := by decide

theorem witness_EncodeOfDecodeIsIdentity :
    decode 0x5000000000000000000000B0 = .ok (.readReg 0xB0) := by decide

theorem witness_IllegalWordsRaiseIllegalCommand :
    (∀ i : Instr, i.WellFormed → encode i ≠ 0) ∧
    (opField 0x000000000000000000000000 = 0x00 ∧ opField 0x030000000000000000000000 = 0x03 ∧
      opField 0x0F0000000000000000000000 = 0x0F ∧ opField 0x190000000000000000000000 = 0x19 ∧
      opField 0x1F0000000000000000000000 = 0x1F ∧ opField 0x220000000000000000000000 = 0x22 ∧
      opField 0x2F0000000000000000000000 = 0x2F ∧ opField 0x370000000000000000000000 = 0x37 ∧
      opField 0x3F0000000000000000000000 = 0x3F ∧ opField 0x480000000000000000000000 = 0x48 ∧
      opField 0x4F0000000000000000000000 = 0x4F ∧ opField 0x510000000000000000000000 = 0x51 ∧
      opField 0xFF0000000000000000000000 = 0xFF) ∧
    (decode 0 = .error .reservedOpcode ∧ State.reset.Accepts) ∧
    (State.reset.CpuIsNext ∧ (scheduled (.cpu 0) State.reset).CpuIsNext) ∧
    (({ State.reset with port := [0] } : State).ctx = .foreground ∧
      ({ State.reset with port := [0] } : State).seqFg = .idle) ∧
    (({ inHandler with handlerWords := [0] } : State).ctx = .handler ∧
      ({ inHandler with handlerWords := [0] } : State).seqHandler = .idle) ∧
    ({ inHandler with handlerEnd := .again [0] } : State).ctx = .handler := by
  refine ⟨fun i _ h => ?_, by decide, ⟨by decide, reset_accepts⟩, ⟨.inl rfl, .inr ⟨0, [], rfl⟩⟩,
    by decide, by decide, by decide⟩
  have h0 := opField_encode i
  rw [h, show opField 0 = 0 by decide] at h0
  cases i <;> simp [Instr.opcode] at h0

/-- A command stands at the port. -/
def presented (w : CmdWord) : State := { State.reset with port := [w] }

theorem witness_StepRunsTheDecodedCommand :
    (presented 0x310400000000000000000000).Faultless ∧
    (presented 0x310400000000000000000000).ctx = .foreground ∧
    (presented 0x310400000000000000000000).seqFg = .idle ∧
    (presented 0x310400000000000000000000).schedule = [] ∧
    (scheduled (.cpu 0) (presented 0x310400000000000000000000)).schedule = [.cpu 0] ∧
    decode 0x310400000000000000000000 = .ok (.stop 4) :=
  ⟨rfl, by decide, rfl, rfl, rfl, by decide⟩

theorem witness_StepResumesTheOperationInProgress :
    ((inOperation (.stop 4) 2 Tmp.zero).Faultless ∧
      (inOperation (.stop 4) 2 Tmp.zero).ctx = .foreground) ∧
    ({ State.reset with seqFg := .dispatch Dispatch.start } : State).ctx = .foreground ∧
    (inDispatch .respond).ctx = .interrupt ∧
    ({ inHandler with seqHandler := .inOp .getIntStatus 2 Tmp.zero } : State).ctx = .handler ∧
    ({ inHandler with handlerWords := [0x470000000000000000000000] } : State).ctx = .handler ∧
    decode 0x470000000000000000000000 = .ok .getIntStatus ∧
    ({ inHandler with handlerEnd := .again [0x470000000000000000000000] } : State).ctx = .handler ∧
    (inHandler.ctx = .handler ∧ inHandler.seqHandler = .idle ∧ inHandler.handlerWords = [] ∧
      inHandler.handlerEnd = .returns ∧ inHandler.schedule = []) ∧
    ({ inHandler with handlerEnd := .again [] } : State).ctx = .handler :=
  ⟨⟨rfl, by decide⟩, by decide, by decide, by decide, by decide, by decide, by decide, by decide,
    by decide⟩

theorem witness_RecordedFaultEndsTheRun :
    ({ State.reset with faultLog := [.illegalCommand] } : State).faultLog = .illegalCommand :: [] := rfl

theorem reset_dividersLegal : State.reset.DividersLegal := ⟨by decide, by decide, by decide⟩

theorem reset_sequencersLegal : State.reset.SequencersLegal :=
  ⟨by decide, by decide, by decide, by decide, by decide, fun _ h => by cases h⟩

theorem witness_StepKeepsDividersLegal :
    (presented 0x140200000000001300000001).DividersLegal ∧
    ∃ t, step (presented 0x140200000000001300000001) = .next t ∧ (t.chan 2).divInt = 19 :=
  ⟨⟨by decide, by decide, by decide⟩, _, rfl, by decide⟩

theorem witness_StepKeepsSequencersLegal :
    (inDispatch .unforceWrite).SequencersLegal ∧ ∃ t, step (inDispatch .unforceWrite) = .next t := by
  refine ⟨⟨by decide, by decide, by decide, by decide, by decide, fun d h => ?_⟩, _, rfl⟩
  obtain rfl : _ = d := Option.some.inj h
  decide

theorem witness_HandlerSlotNeverEmptiesAgain :
    ∃ t, step threePending = .next t ∧ threePending.handler ≠ none := ⟨_, rfl, by decide⟩

theorem witness_NoOperationSetsARawInterrupt :
    ∃ t, exec (.clearInterrupt 1) (withInterrupts 0x06 0 0) = .next t ∧ t.intr.getLsbD 2 = true :=
  ⟨_, rfl, by decide⟩

theorem witness_FaultLeavesNoPartialUpdate :
    ∃ t, exec (.start 4 0 0) clocked = .next t ∧ t.faultLog ≠ clocked.faultLog :=
  ⟨_, rfl, by decide⟩

theorem witness_LogsOnlyGrow :
    ∃ t, step (presented 0) = .next t ∧ t.faultLog = [.illegalCommand] := ⟨_, rfl, by decide⟩

theorem witness_RegisterMapIsTheTable :
    regAt 0xB0 = some .ints ∧ regAt 0x9C = some (.top 7) ∧ regAt 0xB4 = none ∧ regAt 0x02 = none := by
  decide

theorem witness_RegisterWriteKeepsEveryOther :
    (Reg.top 7 ≠ .csr 7 ∧ (Reg.top 7 ≠ .en ∨ ∀ c, Reg.csr 7 ≠ .csr c)) ∧
    (Reg.intr ≠ .en ∧ ∀ c, Reg.intr ≠ .csr c) ∧
    (Reg.ints ≠ .en ∧ Reg.en ≠ .intr ∧ Reg.en ≠ .inte ∧ Reg.en ≠ .intf) :=
  ⟨⟨by decide, .inl (by decide)⟩, ⟨by decide, by decide⟩, by decide⟩

theorem witness_ReadModifyWriteIsTwoMicroSteps :
    rmwOf (.forceInterrupt 7) = some (.intf, 0x80, 0x80) ∧ (oneMicro State.reset).Accepts ∧
    (oneMicro (inOperation (.forceInterrupt 7) 2 Tmp.zero)).ctx ≠ .interrupt ∧
    (oneMicro (inOperation (.forceInterrupt 7) 2 Tmp.zero)).seq =
      .inOp (.forceInterrupt 7) 2 Tmp.zero ∧
    (oneMicro (inOperation (.forceInterrupt 7) 2 Tmp.zero)).quantum = 0 ∧
    (∀ k tmp, (oneMicro (inOperation (.stop 4) k tmp)).StandsAt (.stop 4) k tmp) :=
  ⟨by decide, ⟨by decide, by decide⟩, by decide, by decide, rfl, fun _ _ => ⟨nofun, rfl, rfl⟩⟩

theorem witness_MapPinAnswersChannelAndSubPin : inHandler.Accepts ∧ 1 ≤ inHandler.quantum :=
  ⟨handler_accepts, by decide⟩

theorem witness_PinOfAnswersTheLowestPin :
    State.reset.Accepts ∧ 1 ≤ State.reset.quantum ∧ channelOf 255 = 7 ∧ subPinOf 255 = .B :=
  ⟨reset_accepts, by decide, by decide, by decide⟩

theorem witness_PinsSixteenApartAreOnePin :
    (255#8).toNat = (15#8).toNat + 16 * 15 ∧ State.reset.Accepts ∧ 11 ≤ State.reset.quantum :=
  ⟨by decide, reset_accepts, by decide⟩

theorem witness_ControlSettersWriteTheirField : State.reset.Accepts ∧ 2 ≤ State.reset.quantum :=
  ⟨reset_accepts, by decide⟩

theorem witness_SetDividerWritesOrIgnores :
    State.reset.Accepts ∧ 2 ≤ State.reset.quantum ∧ (1#8 ≠ 0 ∧ (15#8).toNat ≤ 15) ∧
    15 < (16#8).toNat :=
  ⟨reset_accepts, by decide, by decide, by decide⟩

theorem witness_CompareAndTopSettersWriteTheirValue :
    inHandler.Accepts ∧ 2 ≤ inHandler.quantum := ⟨handler_accepts, by decide⟩

theorem witness_ConfigureAppliesTheSnapshot :
    State.reset.Accepts ∧ 15 ≤ State.reset.quantum ∧
    ({ defaultSnapshot with divFrac := 15 } : Snapshot).divInt ≠ 0 ∧
    ({ defaultSnapshot with divFrac := 15 } : Snapshot).divFrac.toNat ≤ 15 ∧
    15 < ({ defaultSnapshot with divFrac := 16 } : Snapshot).divFrac.toNat ∧
    ((oneMicro State.reset).Accepts ∧ (oneMicro State.reset).quantum = 0) ∧
    (∀ k, (oneMicro (inOperation (.configure 7 defaultSnapshot) k Tmp.zero)).StandsAt
      (.configure 7 defaultSnapshot) k Tmp.zero) :=
  ⟨reset_accepts, by decide, by decide, by decide, by decide, ⟨⟨by decide, by decide⟩, rfl⟩,
    fun _ => ⟨nofun, rfl, rfl⟩⟩

theorem witness_ChannelOperationsTouchTheirChannelAlone :
    writesChannel (.setCounter 7 0xFFFF) = some 7 ∧
    (∃ t, exec (.setCounter 7 0xFFFF) State.reset = .next t) ∧
    writesChannel (.stop 4) = some 2 ∧ ∃ t, exec (.stop 4) State.reset = .next t :=
  ⟨by decide, ⟨_, rfl⟩, by decide, _, rfl⟩

theorem witness_SolveTopDividerAnswers :
    clocked.Accepts ∧ 6 ≤ clocked.quantum ∧ State.reset.sysClkHz = none ∧
    (clockedAt 0).sysClkHz = some 0 ∧ clocked.sysClkHz = some 125000000 ∧
    (125000000#32).toNat < (125000001#32).toNat ∧
    (125000000#32).toNat / 65536 < (1908#32).toNat ∧
    256 * (7#32).toNat ≤ (125000000#32).toNat / 65536 ∧
    ((1907#32).toNat ≤ (125000000#32).toNat / 65536 ∧
      (125000000#32).toNat / 65536 < 256 * (8#32).toNat) :=
  ⟨clocked_accepts, by decide, rfl, rfl, rfl, by decide, by decide, by decide, by decide⟩

theorem witness_PlansFitAndAreExact :
    (65535 / 65536 < 1 ∧ 65535 < 2 ^ 32) ∧
    (256 ≤ 4294967295 / 65536 ∧ 4294967295 / 65536 < 256 * 256 ∧ 4294967295 < 2 ^ 32) ∧
    256 * 255 ≤ 4294967295 / 65536 := by decide

theorem witness_SolveCompareAnswers :
    State.reset.Accepts ∧ 2 ≤ State.reset.quantum ∧ 65536 < (65537#32).toNat ∧
    (65536#32).toNat = 65536 ∧ (65534#16) ≠ 65535 ∧ (65535#32).toNat < 65536 :=
  ⟨reset_accepts, by decide, by decide, by decide, by decide, by decide⟩

theorem witness_ObservingOperationsChangeNoRegister :
    observes (.readReg 0xB4) = true ∧ ∃ t, exec (.readReg 0xB4) State.reset = .next t :=
  ⟨by decide, _, rfl⟩

theorem witness_StartProgramsAndEnablesTheChannel :
    clocked.Accepts ∧ 11 ≤ clocked.quantum ∧ clocked.sysClkHz = some 125000000 ∧
    solveTopDivider (125000000#32).toNat (31250000#32).toNat = some ⟨3, 1, 0⟩ ∧
    solveCompare 3 65536 = some 4 ∧
    ((oneMicro clocked).Accepts ∧ (oneMicro clocked).quantum = 0) ∧
    (∀ k tmp, ({ oneMicro clocked with seqFg := .inOp (.start 5 1907 65536) k tmp } : State).StandsAt
      (.start 5 1907 65536) k tmp) ∧
    (solveTopDivider (125000000#32).toNat (1907#32).toNat = some ⟨65535, 1, 0⟩ ∧
      solveTopDivider (125000000#32).toNat (7#32).toNat = none ∧ solveCompare 65535 65536 = none) :=
  ⟨clocked_accepts, by decide, rfl, by decide, by decide, ⟨⟨by decide, by decide⟩, rfl⟩,
    fun _ _ => ⟨nofun, rfl, rfl⟩,
    by decide, by decide, by decide⟩

theorem witness_FailedStartIsNotRolledBack :
    clocked.Accepts ∧ 11 ≤ clocked.quantum ∧ clocked.sysClkHz = some 125000000 ∧
    solveTopDivider (125000000#32).toNat (7#32).toNat = none ∧
    solveTopDivider (125000000#32).toNat (1907#32).toNat = some ⟨65535, 1, 0⟩ ∧
    solveCompare 65535 65536 = none :=
  ⟨clocked_accepts, by decide, rfl, by decide, by decide, by decide⟩

theorem witness_StartReportsTheFirstBrokenPrecondition :
    clocked.Accepts ∧ 11 ≤ clocked.quantum ∧ 65536 < (65537#32).toNat ∧
    (65536#32).toNat ≤ 65536 ∧ State.reset.sysClkHz = none ∧ (clockedAt 0).sysClkHz = some 0 ∧
    (125000000#32).toNat < (125000001#32).toNat :=
  ⟨clocked_accepts, by decide, by decide, by decide, rfl, rfl, by decide⟩

theorem witness_StartKeepsTheClockItSampled :
    (inOperation (.start 4 31250000 49152) 4 { Tmp.zero with sys := 125000000 }).ctx ≠ .interrupt ∧
    (inOperation (.start 4 31250000 49152) 4 { Tmp.zero with sys := 125000000 }).seq =
      .inOp (.start 4 31250000 49152) 4 { Tmp.zero with sys := 125000000 } ∧
    ∃ t, exec (.start 4 31250000 49152)
      (inOperation (.start 4 31250000 49152) 4 { Tmp.zero with sys := 125000000 }) = .next t :=
  ⟨by decide, by decide, _, rfl⟩

theorem witness_StopDisablesTheWholeChannel :
    State.reset.Accepts ∧ 3 ≤ State.reset.quantum ∧ State.reset.stopped (channelOf 4) = true ∧
    channelOf 37 = channelOf 4 :=
  ⟨reset_accepts, by decide, by decide, by decide⟩

/-- The foreground polls a handshake of channel 3, whose `CSR` holds `csr`. -/
def polling (i : Instr) (csr : BitVec 8) : State :=
  { withCsr 3 csr with seqFg := .inOp i 3 Tmp.zero }

/-- On a running channel as on a stopped one, before the poll's read and before its test. -/
theorem witness_PhaseOperationsRequestAndPoll :
    (({ State.reset with quantum := 1 } : State).ctx ≠ .interrupt ∧
      ({ State.reset with quantum := 1 } : State).seq = .idle) ∧
    ((inOperation (.advancePhase 3) 3 Tmp.zero).ctx ≠ .interrupt ∧
      (inOperation (.advancePhase 3) 3 Tmp.zero).seq = .inOp (.advancePhase 3) 3 Tmp.zero ∧
      ((inOperation (.advancePhase 3) 3 Tmp.zero).chan 3).phAdv = false) ∧
    ((inOperation (.retardPhase 3) 3 Tmp.zero).seq = .inOp (.retardPhase 3) 3 Tmp.zero ∧
      ((inOperation (.retardPhase 3) 3 Tmp.zero).chan 3).phRet = false) ∧
    (∀ csr ∈ [0x81#8, 0x80#8], (polling (.advancePhase 3) csr).ctx ≠ .interrupt ∧
      (polling (.advancePhase 3) csr).seq = .inOp (.advancePhase 3) 3 Tmp.zero ∧
      ((polling (.advancePhase 3) csr).chan 3).csr.getLsbD 7 = true) ∧
    ((polling (.retardPhase 3) 0x41).seq = .inOp (.retardPhase 3) 3 Tmp.zero ∧
      ((polling (.retardPhase 3) 0x41).chan 3).csr.getLsbD 6 = true) ∧
    ((inOperation (.retardPhase 3) 4 { Tmp.zero with word := 0x41 }).seq =
        .inOp (.retardPhase 3) 4 { Tmp.zero with word := 0x41 } ∧
      (0x41#32).getLsbD 6 = true ∧ (0x01#32).getLsbD 6 = false) ∧
    (∀ k, k ≤ 5 → (oneMicro (inOperation (.advancePhase 3) k Tmp.zero)).ctx ≠ .interrupt ∧
      (oneMicro (inOperation (.advancePhase 3) k Tmp.zero)).quantum = 0 ∧
      (oneMicro (inOperation (.advancePhase 3) k Tmp.zero)).seq =
        .inOp (.advancePhase 3) k Tmp.zero) := by decide

theorem witness_UnacknowledgedHandshakeNeverEnds :
    (polling (.advancePhase 3) 0x81).StuckInAdvance 3 ∧
    (polling (.advancePhase 3) 0x80).StuckInAdvance 3 ∧
    (polling (.retardPhase 3) 0x40).StuckInRetard 3 ∧
    (∀ rest, (polling (.retardPhase 3) 0x40).schedule ≠ .event .takeIrq :: rest) :=
  ⟨⟨rfl, rfl, by decide, ⟨_, _, rfl, .inl rfl⟩, by decide, .inr (by decide)⟩,
   ⟨rfl, rfl, by decide, ⟨_, _, rfl, .inl rfl⟩, by decide, .inl (by decide)⟩,
   ⟨rfl, rfl, by decide, ⟨_, _, rfl, .inl rfl⟩, by decide, by decide⟩, nofun⟩

/-! The fair runs that meet the hypotheses of `PhaseOperationsEndInEveryFairRun` -/

/-- The turns of a fair run: the acknowledgement, the poll, and then every agent in rotation. -/
def fairTurns (ack : Event) : Nat → Turn
  | 0 => .event ack
  | 1 => .cpu 63
  | n + 2 =>
    match n % 4 with
    | 0 => .cpu 63
    | 1 => .event (.tick 0)
    | 2 => .event (.advAck 0)
    | _ => .event (.retAck 0)

/-- The foreground polls a handshake of channel 0, which runs free with divider 2 and the request set. -/
def fairStart (i : Instr) (csr : BitVec 8) : State :=
  { withChannel 0 (fun ch => { ch with csr := csr, div := 0x020 }) with seqFg := .inOp i 3 Tmp.zero }

/-- One step with a turn supplied. -/
def stepWith (tr : Turn) (s : State) : State := nextOr s (step { s with schedule := [tr] })

/-- The run from `start` under the turns of `ack`. -/
def fairRun (ack : Event) (start : State) : Nat → State
  | 0 => start
  | n + 1 => stepWith (fairTurns ack n) (fairRun ack start n)

/-- The run of a retard, and the run of an advance. -/
def retardRun : Nat → State := fairRun (.retAck 0) (fairStart (.retardPhase 0) 0x41)
def advanceRun : Nat → State := fairRun (.advAck 0) (fairStart (.advancePhase 0) 0x81)

/-- Where a fair run is once the handshake has ended: nothing to do, channel 0 running free. -/
structure AtRest (s : State) : Prop where
  faults : s.faultLog = []
  port   : s.port = []
  irq    : s.seqIrq = .idle
  fg     : s.seqFg = .idle
  csr0   : (s.chan 0).csr = 0x01
  div0   : (s.chan 0).div = 0x020
  others : ∀ c, c ≠ 0 → (s.chan c).csr = 0x00

theorem atRest_retard : AtRest (retardRun 2) :=
  ⟨by decide, by decide, by decide, by decide, by decide, by decide, by decide⟩

theorem atRest_advance : AtRest (advanceRun 2) :=
  ⟨by decide, by decide, by decide, by decide, by decide, by decide, by decide⟩

theorem step_cpu {s : State} (h : AtRest s) (n : Nat) :
    step { s with schedule := [.cpu n] } = .next (s.beginTurn [] n) := by
  have hc : (s.beginTurn [] n).ctx = .foreground := State.ctx_foreground h.irq (by
    show s.seqFg.inDispatch = false; rw [h.fg]; rfl)
  show (match s.faultLog with
    | f :: _ => Host.Outcome.fault f
    | [] => cpuTurn (s.beginTurn [] n)) = _
  rw [h.faults]
  simp only [cpuTurn, hc, foregroundTurn]
  rw [show (s.beginTurn [] n).seqFg = .idle from h.fg, show (s.beginTurn [] n).port = [] from h.port]

theorem step_event {s : State} (h : AtRest s) (e : Event) :
    step { s with schedule := [.event e] } = .next ((s.beginTurn [] s.quantum).event e) := by
  show (match s.faultLog with
    | f :: _ => Host.Outcome.fault f
    | [] => Host.Outcome.next ((s.beginTurn [] s.quantum).event e)) = _
  rw [h.faults]

theorem AtRest.beginTurn {s : State} (h : AtRest s) (n : Nat) : AtRest (s.beginTurn [] n) :=
  ⟨h.faults, h.port, h.irq, h.fg, h.csr0, h.div0, h.others⟩

theorem AtRest.tick {s : State} (h : AtRest s) : AtRest (s.event (.tick 0)) := by
  have hd : (s.chan 0).divInt ≠ 0 := by simp only [Channel.divInt, h.div0]; decide
  have hl : ∀ (u : State) (w : Bool), AtRest u → AtRest (u.latchWrap 0 w) := fun u w hu => by
    cases w
    · exact hu
    · exact ⟨hu.faults, hu.port, hu.irq, hu.fg, hu.csr0, hu.div0, hu.others⟩
  show AtRest (s.tick 0)
  unfold State.tick
  split
  · rw [State.count, if_neg hd]
    refine hl _ _ ⟨h.faults, h.port, h.irq, h.fg, ?_, ?_, fun c hc => ?_⟩
    · rw [State.chan_setChan_same]; exact h.csr0
    · rw [State.chan_setChan_same]; exact h.div0
    · rw [State.chan_setChan_ne _ _ hc]; exact h.others c hc
  · exact h

theorem AtRest.advAck {s : State} (h : AtRest s) : s.event (.advAck 0) = s := by
  show s.advAck 0 = s
  rw [State.advAck, if_neg]
  simp [Channel.advAckEnabled, Channel.phAdv, h.csr0]

theorem AtRest.retAck {s : State} (h : AtRest s) : s.event (.retAck 0) = s := by
  show s.retAck 0 = s
  rw [State.retAck, if_neg]
  simp [Channel.retAckEnabled, Channel.phRet, h.csr0]

/-- Every later turn leaves the run at rest, and is a step. -/
theorem AtRest.turn {s : State} (h : AtRest s) (ack : Event) (n : Nat) :
    StepsBy (fairTurns ack (n + 2)) s (stepWith (fairTurns ack (n + 2)) s) ∧
      AtRest (stepWith (fairTurns ack (n + 2)) s) := by
  have key : ∀ tr t, step { s with schedule := [tr] } = .next t → AtRest t →
      StepsBy tr s (stepWith tr s) ∧ AtRest (stepWith tr s) := fun tr t ht hr => by
    have he : stepWith tr s = t := by rw [stepWith, ht]; rfl
    rw [he]; exact ⟨ht, hr⟩
  have hb := h.beginTurn s.quantum
  simp only [fairTurns]
  split
  · exact key _ _ (step_cpu h 63) (h.beginTurn 63)
  · exact key _ _ (step_event h _) hb.tick
  · exact key _ _ (step_event h _) (by rw [hb.advAck]; exact hb)
  · exact key _ _ (step_event h _) (by rw [hb.retAck]; exact hb)

section FairRun

variable {ack : Event} {start : State} (h2 : AtRest (fairRun ack start 2))
include h2

theorem fairRun_atRest : ∀ n, AtRest (fairRun ack start (n + 2))
  | 0 => h2
  | n + 1 => ((fairRun_atRest n).turn ack n).2

theorem fairRun_isRun (h0 : StepsBy (fairTurns ack 0) start (fairRun ack start 1))
    (h1 : StepsBy (fairTurns ack 1) (fairRun ack start 1) (fairRun ack start 2)) :
    IsRun (fairTurns ack) (fairRun ack start)
  | 0 => h0
  | 1 => h1
  | n + 2 => ((fairRun_atRest h2 n).turn ack n).1

omit h2 in
theorem fairTurns_recur (ack : Event) (r : Nat) (hr : r < 4) (n : Nat) :
    ∃ m, n ≤ m ∧ fairTurns ack m = fairTurns ack (r + 2) := by
  refine ⟨4 * n + r + 2, by omega, ?_⟩
  have h : (4 * n + r) % 4 = r % 4 := by omega
  simp only [fairTurns, h]

theorem fairRun_timerFair : TimerFair (fairTurns ack) (fairRun ack start) := by
  intro c hc
  by_cases h0 : c = 0
  · subst h0
    exact ⟨fun _ => fairTurns_recur ack 1 (by decide), fun _ => fairTurns_recur ack 2 (by decide),
      fun _ => fairTurns_recur ack 3 (by decide)⟩
  · obtain ⟨n, hn⟩ := hc
    have := hn (n + 2) (by omega)
    simp [Channel.en, (fairRun_atRest h2 n).others c h0] at this

omit h2 in
theorem fairTurns_cpuFair : CpuFair (fairTurns ack) := fun n =>
  have ⟨m, hm, ht⟩ := fairTurns_recur ack 0 (by decide) n
  ⟨m, 63, hm, ht⟩

omit h2 in
theorem fairTurns_noIrq (h : ack ≠ .takeIrq) (n : Nat) : fairTurns ack n ≠ .event .takeIrq := by
  match n with
  | 0 => simpa [fairTurns] using h
  | 1 => simp [fairTurns]
  | n + 2 => simp only [fairTurns]; split <;> simp

theorem fairRun_driven : ∃ n, ∀ m, n ≤ m →
    ((fairRun ack start m).chan 0).en = true ∧ ((fairRun ack start m).chan 0).SelfDriven := by
  refine ⟨2, fun m hm => ?_⟩
  obtain ⟨k, rfl⟩ : ∃ k, m = k + 2 := ⟨m - 2, by omega⟩
  have h := (fairRun_atRest h2 k).csr0
  exact ⟨by unfold Channel.en; rw [h]; rfl, .inl (by unfold Channel.divMode; rw [h]; rfl)⟩

theorem fairRun_divided : ∃ n, ∀ m, n ≤ m → 16 < ((fairRun ack start m).chan 0).dividerValue16 := by
  refine ⟨2, fun m hm => ?_⟩
  obtain ⟨k, rfl⟩ : ∃ k, m = k + 2 := ⟨m - 2, by omega⟩
  unfold Channel.dividerValue16 Channel.divInt Channel.divFrac
  rw [(fairRun_atRest h2 k).div0]
  decide

end FairRun

theorem witness_PhaseOperationsEndInEveryFairRun :
    (IsRun (fairTurns (.retAck 0)) retardRun ∧ TimerFair (fairTurns (.retAck 0)) retardRun ∧
      CpuFair (fairTurns (.retAck 0)) ∧ (∀ n, fairTurns (.retAck 0) n ≠ .event .takeIrq) ∧
      (retardRun 0).seqIrq = .idle ∧ (retardRun 0).Polls (.retardPhase 0) retardPending ∧
      (∃ n, ∀ m, n ≤ m → ((retardRun m).chan 0).en = true ∧ ((retardRun m).chan 0).SelfDriven)) ∧
    (IsRun (fairTurns (.advAck 0)) advanceRun ∧ TimerFair (fairTurns (.advAck 0)) advanceRun ∧
      CpuFair (fairTurns (.advAck 0)) ∧ (∀ n, fairTurns (.advAck 0) n ≠ .event .takeIrq) ∧
      (advanceRun 0).seqIrq = .idle ∧ (advanceRun 0).Polls (.advancePhase 0) advancePending ∧
      (∃ n, ∀ m, n ≤ m → ((advanceRun m).chan 0).en = true ∧ ((advanceRun m).chan 0).SelfDriven) ∧
      (∃ n, ∀ m, n ≤ m → 16 < ((advanceRun m).chan 0).dividerValue16)) :=
  ⟨⟨fairRun_isRun atRest_retard rfl rfl, fairRun_timerFair atRest_retard, fairTurns_cpuFair,
      fairTurns_noIrq (by decide), rfl, ⟨_, _, rfl, .inl rfl⟩, fairRun_driven atRest_retard⟩,
    ⟨fairRun_isRun atRest_advance rfl rfl, fairRun_timerFair atRest_advance, fairTurns_cpuFair,
      fairTurns_noIrq (by decide), rfl, ⟨_, _, rfl, .inl rfl⟩, fairRun_driven atRest_advance,
      fairRun_divided atRest_advance⟩⟩

theorem witness_CounterIsReadAndWrittenRaw : State.reset.Accepts ∧ 1 ≤ State.reset.quantum :=
  ⟨reset_accepts, by decide⟩

theorem witness_MaskEnableEnablesInOneWrite :
    (State.reset.Accepts ∧ 2 ≤ State.reset.quantum) ∧
    ((oneMicro State.reset).Accepts ∧ (oneMicro State.reset).quantum = 0) ∧
    (∀ k tmp, (oneMicro (inOperation (.maskEnable 5) k tmp)).StandsAt (.maskEnable 5) k tmp) :=
  ⟨⟨reset_accepts, by decide⟩, ⟨⟨by decide, by decide⟩, rfl⟩, fun _ _ => ⟨nofun, rfl, rfl⟩⟩

theorem witness_ReadRegAnswersTheRegister :
    State.reset.Accepts ∧ 1 ≤ State.reset.quantum ∧ Reg.ints.offset = (0xB0#8).toNat ∧
    ∀ r : Reg, r.offset ≠ (0xB4#8).toNat := by
  refine ⟨reset_accepts, by decide, by decide, fun r => ?_⟩
  have h : ∀ c : ChannelId, c.val < 8 := fun c => c.isLt
  cases r <;> simp only [Reg.offset] <;> first | decide | skip
  all_goals
    rename_i c
    have := h c
    show _ ≠ 180
    omega

theorem witness_EnableAndDisableWriteOneMaskBit :
    (withInterrupts 0x04 0 0).Accepts ∧ 2 ≤ (withInterrupts 0x04 0 0).quantum ∧
    (withInterrupts 0x04 0 0).intr.getLsbD 2 = true := ⟨⟨by decide, by decide⟩, by decide, by decide⟩

theorem witness_ForceAndUnforceWriteOneForcedBit : inHandler.Accepts ∧ 2 ≤ inHandler.quantum :=
  ⟨handler_accepts, by decide⟩

theorem witness_ClearInterruptClearsOneLatch : inHandler.Accepts ∧ 1 ≤ inHandler.quantum :=
  ⟨handler_accepts, by decide⟩

theorem witness_InterruptBitOperationsTouchOneRegister :
    interruptBitOf (.clearInterrupt 7) = some 7 ∧
    interruptBitOf (.unforceInterrupt 0) = some 0 ∧
    ∃ t, exec (.clearInterrupt 7) (withInterrupts 0xFF 0 0) = .next t :=
  ⟨by decide, by decide, _, rfl⟩

theorem witness_HandlerIsSetAndStatusIsRead : inHandler.Accepts ∧ 1 ≤ inHandler.quantum :=
  ⟨handler_accepts, by decide⟩

theorem witness_DispatchServesEveryPendingChannel :
    (threePending.seqIrq = .idle ∧ threePending.seqFg = .idle) ∧
    (threePending.event .takeIrq).seqIrq = .dispatch Dispatch.start ∧
    threePending.HandlersSilent ∧ 34 ≤ threePending.quantum :=
  ⟨by decide, by decide, nofun, by decide⟩

theorem witness_ForcedInterruptIsHandledOnce :
    threePending.seqIrq = .idle ∧ threePending.seqFg = .idle ∧ threePending.handler = some 0xA ∧
    threePending.HandlersSilent ∧ 34 ≤ threePending.quantum :=
  ⟨rfl, rfl, rfl, nofun, by decide⟩

/-- A dispatch run by hand in the foreground, before step 2a of channel 7, whose snapshot is `0x81`. -/
def byHand (phase : DispatchPhase) (chan : ChannelId) : State :=
  { State.reset with
    seqFg := .dispatch { snapshot := 0x81, chan := chan, phase := phase, tmp := 0x80 }, quantum := 0 }

theorem witness_DispatcherNotifiesThenClearsThenUnforces :
    (∀ phase, (oneMicro (inDispatch phase)).quantum = 0 ∧
      (oneMicro (inDispatch phase)).currentDispatch =
        some { snapshot := 0x02, chan := 1, phase := phase, tmp := 0x02 }) ∧
    (∀ phase, (byHand phase 7).quantum = 0 ∧ (byHand phase 7).currentDispatch =
      some { snapshot := 0x81, chan := 7, phase := phase, tmp := 0x80 }) ∧
    (IsFirstFrom 0x80 0 7 ∧ NoneFrom 0x00 0 ∧ IsFirstFrom 0x81 1 7 ∧ NoneFrom 0x81 8 ∧
      NoneFrom 0x02 2) ∧
    (({ byHand .notify 7 with handler := some 0xA } : State).handlerCall 0xA 7 = .silent ∧
      ({ oneMicro (inDispatch .notify) with handlerBehaviour := forcing } : State).handlerCall 0xA 1 ≠
        .silent) ∧
    (({ State.reset with handlerScript := [.silent] } : State).handlerBehaviour = .scripted ∧
      ({ State.reset with handlerBehaviour := .parameter } : State).handlerBehaviour = .parameter) ∧
    ((∃ t, exec (.clearInterrupt 7) inHandler = .next t ∧ t.responses ≠ inHandler.responses) ∧
      inHandler.handlerWords = [] ∧ inHandler.handlerEnd = .returns) ∧
    (∃ t, exec (.clearInterrupt 7) { inHandler with handlerWords := [0] } = .next t ∧
      t.responses ≠ inHandler.responses) ∧
    ∃ t, exec (.clearInterrupt 7) (oneMicro inHandler) = .next t ∧
      t.responses = inHandler.responses := by
  refine ⟨fun p => ⟨rfl, rfl⟩, fun p => ⟨rfl, rfl⟩, ?_, by decide, by decide,
    ⟨⟨_, rfl, by decide⟩, rfl, rfl⟩, ⟨_, rfl, by decide⟩, _, rfl, by decide⟩
  exact ⟨by unfold IsFirstFrom; decide, by unfold NoneFrom; decide, by unfold IsFirstFrom; decide,
    by unfold NoneFrom; decide, by unfold NoneFrom; decide⟩

theorem witness_HandlerMayNotReenterTheDispatcher :
    inHandler.ctx = .handler ∧ inHandler.seqHandler = .idle := by decide

theorem witness_TakeIrqEntersAndSavesNothing :
    (scheduled (.event .takeIrq) threePending).Faultless ∧
    ((scheduled (.event .takeIrq) threePending).pending 5 = true ∧
      (scheduled (.event .takeIrq) threePending).seqIrq = .idle ∧
      (scheduled (.event .takeIrq) threePending).seqFg.inDispatch = false) ∧
    (∀ c, (scheduled (.event .takeIrq) State.reset).pending c = false) ∧
    (inDispatch .clearRaw).seqIrq ≠ .idle ∧
    ({ State.reset with seqFg := .dispatch Dispatch.start } : State).seqFg.inDispatch = true :=
  ⟨rfl, by decide, by decide, by decide, rfl⟩

theorem witness_ForegroundWaitsDuringADispatch :
    (inDispatch .unforceWrite).SequencersLegal ∧ (inDispatch .unforceWrite).seqIrq ≠ .idle ∧
    ∃ t, step (inDispatch .unforceWrite) = .next t :=
  ⟨witness_StepKeepsSequencersLegal.1, by decide, _, rfl⟩

/-- Channel 3 at a counter, with its B pin at a level. -/
def pinned (level : Bool) (csr : BitVec 8) (ctr : BitVec 16) (dir : Dir) : State :=
  withChannel 3 fun ch => { (ticking csr ctr dir).chan 3 with pinBIn := level, div := ch.div }

theorem witness_TrailingEdgeTick :
    ((ticking 0x01 2 .up).chan 3).divInt ≠ 0 ∧
    (((ticking 0x01 2 .up).chan 3).en = true ∧ ((ticking 0x01 2 .up).chan 3).phCorrect = false ∧
      ((ticking 0x01 2 .up).chan 3).SelfDriven ∧
      ((ticking 0x01 2 .up).chan 3).ctr = ((ticking 0x01 2 .up).chan 3).top) ∧
    ((pinned true 0x11 3 .up).chan 3).SelfDriven ∧
    ((ticking 0x01 3 .up).chan 3).ctr ≠ ((ticking 0x01 3 .up).chan 3).top ∧
    ((ticking 0x00 3 .up).chan 3).en = false ∧
    (((ticking 0x11 3 .up).chan 3).divMode = .gatedHigh ∧
      ((ticking 0x11 3 .up).chan 3).pinBIn = false) ∧
    ((ticking 0x21 3 .up).chan 3).divMode = .risingEdge ∧
    ((ticking 0x31 3 .up).chan 3).divMode = .fallingEdge := by unfold Channel.SelfDriven; decide

theorem witness_PhaseCorrectTick :
    ((ticking 0x03 0 .up).chan 3).divInt ≠ 0 ∧ ((ticking 0x03 0 .up).chan 3).en = true ∧
    ((ticking 0x03 0 .up).chan 3).phCorrect = true ∧
    ((ticking 0x03 0 .up).chan 3).SelfDriven ∧
    (((pinned true 0x13 0 .up).chan 3).SelfDriven ∧ ((pinned true 0x13 0 .up).chan 3).en = true ∧
      ((pinned true 0x13 0 .up).chan 3).phCorrect = true) ∧
    (ticking 0x03 0 .up).counterStep = .reference ∧
    ({ ticking 0x03 0 .up with counterStep := .parameter } : State).counterStep = .parameter ∧
    (((ticking 0x03 1 .up).chan 3).ctr.toNat < ((ticking 0x03 1 .up).chan 3).top.toNat) ∧
    (((ticking 0x03 2 .up).chan 3).top.toNat ≤ ((ticking 0x03 2 .up).chan 3).ctr.toNat) ∧
    (((ticking 0x03 1 .down).chan 3).dir = .down ∧ 0 < ((ticking 0x03 1 .down).chan 3).ctr.toNat) ∧
    ((ticking 0x03 0 .down).chan 3).ctr = 0 := by unfold Channel.SelfDriven; decide

theorem witness_PinBCountsOnlyAMatchingEdge :
    ((ticking 0x21 2 .up).chan 3).divInt ≠ 0 ∧ ((ticking 0x21 2 .up).chan 3).en = true ∧
    (((ticking 0x21 2 .up).chan 3).EdgeCounts true ∧
      ((ticking 0x21 2 .up).chan 3).phCorrect = false ∧
      ((ticking 0x21 2 .up).chan 3).ctr = ((ticking 0x21 2 .up).chan 3).top) ∧
    (((pinned true 0x33 0 .down).chan 3).EdgeCounts false ∧
      ((pinned true 0x33 0 .down).chan 3).phCorrect = true ∧
      ((pinned true 0x33 0 .down).chan 3).en = true) ∧
    ¬((ticking 0x21 2 .up).chan 3).EdgeCounts false ∧
    ¬((ticking 0x01 2 .up).chan 3).EdgeCounts true ∧
    ¬((ticking 0x11 2 .up).chan 3).EdgeCounts true := by unfold Channel.EdgeCounts; decide

/-- An edge at `TOP` latches the raw interrupt; in phase-correct mode it counts as a tick does. -/
theorem test_edge_counts :
    ((ticking 0x21 2 .up).event (.pinB 3 true true)).regRead (.ctr 3) = 0 ∧
    ((ticking 0x21 2 .up).event (.pinB 3 true true)).intr = 0x08 ∧
    (((pinned true 0x33 0 .down).event (.pinB 3 false true)).chan 3).dir = .up ∧
    ((pinned true 0x33 0 .down).event (.pinB 3 false true)).intr = 0x08 := by decide

theorem witness_AcknowledgementsClearTheirRequest :
    ((requested 0xC1 2).chan 3).divInt ≠ 0 ∧ ((requested 0xC1 2).chan 3).phRet = true ∧
    ((requested 0xC1 2).chan 3).phAdv = true ∧ ((requested 0xC1 2).chan 3).running = true ∧
    16 < ((requested 0xC1 2).chan 3).dividerValue16 ∧
    ((requested 0xC1 2).chan 3).phCorrect = false ∧
    (((requested 0x83 2).chan 3).phAdv = true ∧ ((requested 0x83 2).chan 3).running = true ∧
      ((requested 0x83 2).chan 3).phCorrect = true) ∧
    ((requested 0x01 2).chan 3).phRet = false ∧ ((requested 0xC0 2).chan 3).running = false ∧
    ((ticking 0x81 2 .up).chan 3).dividerValue16 ≤ 16 := by decide

theorem witness_TimerArrayWritesOnlyItsOwn :
    (scheduled (.event (.tick 3)) (ticking 0x01 2 .up)).schedule = [.event (.tick 3)] ∧
    ∃ t, step (scheduled (.event (.tick 3)) (ticking 0x01 2 .up)) = .next t ∧ t.intr = 0x08 :=
  ⟨rfl, _, rfl, by decide⟩

theorem witness_ChannelsAreIndependent :
    (Event.pinB 3 true true = .tick 3 ∨ ∃ level counts, Event.pinB 3 true true = .pinB 3 level counts) ∧
    (ticking 0x01 2 .up).chan 3 = ((ticking 0x01 2 .up).setChan 0 { Channel.reset with csr := 1 }).chan 3 :=
  ⟨.inr ⟨_, _, rfl⟩, by decide⟩

theorem witness_OutputsCompareCounterAndValue :
    ((ticking 0x01 2 .up).chan 3).en = true ∧ ((ticking 0x01 2 .up).chan 3).phCorrect = false ∧
    ((ticking 0x01 2 .up).chan 3).disturbed = false ∧
    ((ticking 0x01 2 .up).chan 3).divMode = .freeRunning ∧
    ((ticking 0x21 2 .up).chan 3).divMode ≠ .freeRunning ∧
    ((requested 0x01 2).chan 3).ccA = 0 ∧ ((requested 0x01 2).chan 3).aInv = false ∧
    ((ticking 0x01 2 .up).chan 3).ctr.toNat ≤ ((ticking 0x01 2 .up).chan 3).top.toNat ∧
    ((ticking 0x01 2 .up).chan 3).top.toNat <
      ({ (ticking 0x01 2 .up).chan 3 with cc := 3 } : Channel).ccA.toNat := by decide

end Sys2Proof.Tests
end

section
/-! PROOFS. Pins a multiple of 16 apart (40_pin_mapping.md R93). Such pins share channel and sub-pin, so
their operations share the body; and a turn long enough for the whole body never stores the operation's
name, and so not the pin either. -/

namespace Sys2Proof.Machine

open Sys2Proof

/-! ### An operation that goes forward and ends -/

/-- What micro-step `k` of a body without a loop, whose last micro-step is `last`, may do: go on at the
next one before `last`, or end the operation. -/
inductive MicroForward (last k : Nat) : Micro (Nat × Tmp) → Prop where
  | next (h : k < last) (t : Tmp) (s : State) : MicroForward last k (.next (k + 1, t) s)
  | done (s : State) : MicroForward last k (.done s)

/-- A turn with room for every micro-step up to the last does not suspend the operation, so how a place
would be stored does not matter. -/
theorem runMicros_suspend_irrelevant {body : OpBody} {last : Nat}
    (hb : ∀ k t s, MicroForward last k (body k t s)) (f g : Nat × Tmp → State → State) :
    ∀ (n k : Nat) (t : Tmp) (s : State), last ≤ k + n →
      runMicros f (fun p s => body p.1 p.2 s) n (k, t) s =
        runMicros g (fun p s => body p.1 p.2 s) n (k, t) s := by
  intro n
  induction n with
  | zero =>
    intro k t s hn
    cases hm : body k t s with
    | next q u => have hf := hm ▸ hb k t s; cases hf; omega
    | yield q u => have hf := hm ▸ hb k t s; cases hf
    | done u => rw [runMicros_done hm, runMicros_done hm]
  | succ n ih =>
    intro k t s hn
    cases hm : body k t s with
    | next q u =>
      rw [runMicros_next_succ hm, runMicros_next_succ hm]
      have hf := hm ▸ hb k t s
      cases hf
      exact ih _ _ _ (by omega)
    | yield q u => have hf := hm ▸ hb k t s; cases hf
    | done u => rw [runMicros_done hm, runMicros_done hm]

/-- Two operations with one body do the same in a turn that has room for all of it. -/
theorem exec_eq_of_bodyOf_eq {i j : Instr} {body : OpBody} {last : Nat} {s : State}
    (hi : bodyOf i = some body) (hj : bodyOf j = some body)
    (hb : ∀ k t s, MicroForward last k (body k t s)) (hs : s.Accepts)
    (hq : last ≤ 1 + s.quantum) : exec i s = exec j s := by
  rw [exec_of_bodyOf hi, exec_of_bodyOf hj, runOp_of_accepts hs, runOp_of_accepts hs,
    runMicros_suspend_irrelevant hb _ _ _ _ _ _ hq]

theorem pureBody_forward (value : BitVec 48) (k : Nat) (t : Tmp) (s : State) :
    MicroForward 2 k (pureBody value k t s) := by
  unfold pureBody
  split
  · exact .next (by decide) _ _
  · exact .done _

theorem stopBody_forward (pin : BitVec 8) (k : Nat) (t : Tmp) (s : State) :
    MicroForward 4 k (stopBody pin k t s) := by
  unfold stopBody
  split
  · exact .next (by decide) _ _
  · exact .next (by decide) _ _
  · exact .next (by decide) _ _
  · exact .done _

theorem startBody_forward (pin : BitVec 8) (freq duty : BitVec 32) (k : Nat) (t : Tmp) (s : State) :
    MicroForward 12 k (startBody pin freq duty k t s) := by
  unfold startBody
  split
  · exact .next (by decide) _ _
  · split
    · exact .done _
    · split
      · exact .done _
      · exact .next (by decide) _ _
  · split
    · exact .done _
    · split
      · exact .done _
      · exact .next (by decide) _ _
  · split
    · exact .done _
    · exact .next (by decide) _ _
  · exact .next (by decide) _ _
  · exact .next (by decide) _ _
  · split
    · exact .done _
    · exact .next (by decide) _ _
  · exact .next (by decide) _ _
  · exact .next (by decide) _ _
  · exact .next (by decide) _ _
  · exact .next (by decide) _ _
  · exact .done _

/-! ### The pin enters an operation by its channel and sub-pin alone -/

section SamePin

variable {p q : BitVec 8}

theorem channelOf_of_sixteen_apart {k : Nat} (h : q.toNat = p.toNat + 16 * k) :
    channelOf q = channelOf p := by
  apply Fin.ext
  simp only [channelOf, Fin.ofNat]
  omega

theorem subPinOf_of_sixteen_apart {k : Nat} (h : q.toNat = p.toNat + 16 * k) :
    subPinOf q = subPinOf p := by
  have hmod : q.toNat % 2 = p.toNat % 2 := by omega
  simp only [subPinOf, hmod]

theorem bodyOf_mapPin_congr (hc : channelOf q = channelOf p) (hs : subPinOf q = subPinOf p) :
    bodyOf (.mapPin q) = bodyOf (.mapPin p) := by
  simp only [bodyOf, hc, hs]

theorem stopBody_congr (hc : channelOf q = channelOf p) : stopBody q = stopBody p := by
  unfold stopBody
  rw [hc]

theorem startBody_congr (hc : channelOf q = channelOf p) (hs : subPinOf q = subPinOf p) :
    startBody q = startBody p := by
  unfold startBody
  rw [hc, hs]

end SamePin

/-- Settles O22: the pins share channel and sub-pin, so the operations share their bodies, and a turn of
11 further micro-steps has room for the longest of them, `start`. -/
theorem pinsSixteenApartAreOnePin : Obligations.PinsSixteenApartAreOnePin := by
  intro p q k h
  have hc := channelOf_of_sixteen_apart h
  have hs := subPinOf_of_sixteen_apart h
  refine ⟨hc, hs, fun s ha hq => ⟨?_, ?_, fun freq duty => ?_⟩⟩
  · exact exec_eq_of_bodyOf_eq (bodyOf_mapPin_congr hc hs) rfl (pureBody_forward _) ha (by omega)
  · exact exec_eq_of_bodyOf_eq (congrArg some (stopBody_congr hc)) rfl (stopBody_forward p) ha
      (by omega)
  · have hbody : bodyOf (.start q freq duty) = some (startBody p freq duty) := by
      rw [bodyOf, startBody_congr hc hs]
    exact exec_eq_of_bodyOf_eq hbody rfl (startBody_forward p freq duty) ha (by omega)

end Sys2Proof.Machine
end

section
/-! PROOFS. `set_divider` (41_config_setters.md R105). What the turn does is one of two equations, by the
check of the operands: the response alone, or one write of `DIV` and the response. -/

namespace Sys2Proof.Machine

open Sys2Proof

/-! ### What a register write and a response leave unchanged -/

theorem KeepsSurroundings.refl (s : State) : KeepsSurroundings s s := by
  simp [KeepsSurroundings]

theorem keepsSurroundings_regWrite (s : State) (r : Reg) (v : Word) :
    KeepsSurroundings s (s.regWrite r v) := by
  simp [KeepsSurroundings]

theorem keepsSurroundings_respond {s u : State} (h : KeepsSurroundings s u) (a : Answer) :
    KeepsSurroundings s (u.respond a) := by
  simpa [KeepsSurroundings] using h

theorem keepsInterrupts_respond {s u : State} (h : KeepsInterrupts s u) (a : Answer) :
    KeepsInterrupts s (u.respond a) := by
  simpa [KeepsInterrupts] using h

theorem keepsOtherChannels_respond {c : ChannelId} {s u : State} (h : KeepsOtherChannels c s u)
    (a : Answer) : KeepsOtherChannels c s (u.respond a) := by
  simpa [KeepsOtherChannels] using h

/-! ### The check of the operands and the two turns -/

section SetDivider

variable {c : ChannelId} {divInt divFrac : BitVec 8} {s : State}

theorem dividerMalformed_iff :
    dividerMalformed divInt divFrac = true ↔ divInt = 0 ∨ 15 < divFrac.toNat := by
  simp [dividerMalformed, BitVec.toNat_eq]

/-- A malformed divider ends the call at its check, in the first micro-step. -/
theorem exec_setDivider_malformed (hs : s.Accepts) (hm : divInt = 0 ∨ 15 < divFrac.toNat) :
    exec (.setDivider c divInt divFrac) s = .next (s.respond (.ok 0)) := by
  have hbody : setDividerBody c divInt divFrac 1 Tmp.zero s = .done (s.respond (.ok 0)) := by
    simp [setDividerBody, dividerMalformed_iff.2 hm, answer]
  rw [exec_of_bodyOf rfl, runOp_of_accepts hs, runMicros_done hbody]

/-- A well-formed divider is written in the second micro-step, and the third responds. -/
theorem exec_setDivider_wellFormed (hs : s.Accepts) (hq : 2 ≤ s.quantum)
    (hm : ¬(divInt = 0 ∨ 15 < divFrac.toNat)) :
    exec (.setDivider c divInt divFrac) s =
      .next ((s.regWrite (.div c) (dividerWord divInt divFrac)).respond (.ok 0)) := by
  have hcheck : setDividerBody c divInt divFrac 1 Tmp.zero s = .next (2, Tmp.zero) s := by
    simp [setDividerBody, mt dividerMalformed_iff.1 hm, goto]
  obtain ⟨n, hn⟩ := Nat.exists_eq_add_of_le' hq
  rw [exec_of_bodyOf rfl, runOp_of_accepts hs, hn, runMicros_next_succ hcheck]
  cases n <;> rfl

end SetDivider

/-- Settles O24, by the check of the operands: where they pass it the turn is one write of `DIV`, which
stores both fields of a fraction of four bits; where they do not, it is the response alone. -/
theorem setDividerWritesOrIgnores : Obligations.SetDividerWritesOrIgnores := by
  intro c divInt divFrac s hs hq
  by_cases hm : divInt = 0 ∨ 15 < divFrac.toNat
  · exact ⟨_, exec_setDivider_malformed hs hm, finished_respond _ rfl rfl,
      keepsOtherChannels_respond (.refl c s) _, keepsInterrupts_respond (.refl s) _,
      keepsSurroundings_respond (.refl s) _,
      fun hi hf => absurd hm (not_or.2 ⟨hi, Nat.not_lt.2 hf⟩), fun _ => State.chan_respond s _ c⟩
  · obtain ⟨hother, hintr⟩ :=
      keeps_setChan s c ((s.chan c).writeDiv (dividerWord divInt divFrac))
    refine ⟨_, exec_setDivider_wellFormed hs hq hm, finished_respond _ (by simp) (by simp),
      keepsOtherChannels_respond hother _, keepsInterrupts_respond hintr _,
      keepsSurroundings_respond (keepsSurroundings_regWrite s _ _) _, fun _ hf => ?_,
      fun h => absurd h hm⟩
    have hchan : ((s.regWrite (.div c) (dividerWord divInt divFrac)).respond (.ok 0)).chan c =
        (s.chan c).writeDiv (dividerWord divInt divFrac) := by simp [State.regWrite]
    obtain ⟨hint, hfrac⟩ := writeDiv_dividerWord (s.chan c) divInt divFrac hf
    rw [hchan]
    exact ⟨hint, hfrac, onlyDiv_writeDiv _ _⟩

end Sys2Proof.Machine
end

section
/-! PROOFS. `stop` (43_channel_controller.md R141). A turn long enough for the whole operation is one write
of `CSR` with the enable bit cleared, and the response; on a stopped channel that write stores the channel
as it was. -/

namespace Sys2Proof.Machine

open Sys2Proof

/-- The write of `CSR` in `stop`, on the word that the read before it found. -/
def Channel.disabled (ch : Channel) : Channel :=
  ch.writeCsr (csrWithEnable (ch.csr.setWidth 32) false)

theorem disabled_csr_getLsbD (ch : Channel) (k : Nat) :
    ch.disabled.csr.getLsbD k = if k = 0 then false else ch.csr.getLsbD k :=
  csrWithEnable_getLsbD ch false k

theorem onlyCsr_disabled (ch : Channel) : OnlyCsr ch ch.disabled :=
  onlyCsr_writeCsr ch _

/-- A stopped channel is left whole: its enable bit is clear already, and a write of `CSR` opens the
outputs of an enabled channel only. -/
theorem disabled_of_stopped {ch : Channel} (h : ch.en = false) : ch.disabled = ch := by
  have hcsr : ch.disabled.csr = ch.csr := by
    apply BitVec.eq_of_getLsbD_eq
    intro k _
    rw [disabled_csr_getLsbD]
    split
    · next hk => rw [hk]; exact h.symm
    · rfl
  have hdisturbed : ch.disabled.disturbed = ch.disturbed := by
    show (ch.disturbed || ch.en) = ch.disturbed
    rw [h, Bool.or_false]
  have honly : ch.disabled = { ch with csr := ch.disabled.csr, disturbed := ch.disabled.disturbed } :=
    onlyCsr_disabled ch
  rw [honly, hcsr, hdisturbed]

/-- Three further micro-steps have room for the read, the write and the response. -/
theorem exec_stop_of_accepts {pin : BitVec 8} {s : State} (hs : s.Accepts) (hq : 3 ≤ s.quantum) :
    exec (.stop pin) s =
      .next ((s.setChan (channelOf pin) (s.chan (channelOf pin)).disabled).respond (.ok 0)) := by
  obtain ⟨n, hn⟩ := Nat.exists_eq_add_of_le' hq
  rw [exec_of_bodyOf rfl, runOp_of_accepts hs, hn]
  cases n <;> rfl

/-- Settles O36: the turn is one `CSR` write and the response, a function of the pin's channel alone. The
frames are those of a channel replaced; a stopped channel is replaced by itself. -/
theorem stopDisablesTheWholeChannel : Obligations.StopDisablesTheWholeChannel := by
  intro pin s hs hq
  obtain ⟨hother, hintr⟩ :=
    keeps_setChan s (channelOf pin) (s.chan (channelOf pin)).disabled
  have hchan : ((s.setChan (channelOf pin) (s.chan (channelOf pin)).disabled).respond (.ok 0)).chan
      (channelOf pin) = (s.chan (channelOf pin)).disabled := by simp
  refine ⟨_, exec_stop_of_accepts hs hq, finished_respond _ rfl rfl, ?_, fun k hk => ?_, ?_,
    keepsOtherChannels_respond hother _, keepsInterrupts_respond hintr _,
    keepsSurroundings_respond (keepsSurroundings_regWrite s (.csr _) _) _, fun hstop => ?_,
    fun other hc => ?_⟩
  · rw [hchan]
    exact disabled_csr_getLsbD _ 0
  · rw [hchan, disabled_csr_getLsbD, if_neg hk]
  · rw [hchan]
    exact onlyCsr_disabled _
  · have hen : (s.chan (channelOf pin)).en = false := by simpa [State.stopped] using hstop
    refine ⟨fun d => ?_, keepsInterrupts_respond hintr _⟩
    by_cases hd : d = channelOf pin
    · rw [hd, hchan, disabled_of_stopped hen]
    · exact keepsOtherChannels_respond hother _ d hd
  · rw [exec_stop_of_accepts hs hq, hc]

end Sys2Proof.Machine
end

section
/-! PROOFS. What a step of the timer array writes (45_timer_array.md R200, R201). Every event of a channel
prepares the channel (clears a request, sets the pin's level, or nothing) and then counts it or not, and
both halves look at nothing but that channel. So one description of the state after the event serves both
statements: the channel it leaves, and whether the channel's interrupt is latched. -/

namespace Sys2Proof.Machine

open Sys2Proof

/-! ### A step of one channel -/

/-- `t` is `s` with channel `c` replaced by `ch` and its raw interrupt latched if `latched`; the schedule
and the sequencers stay, and only the fault log may have grown. -/
structure WritesChannel (c : ChannelId) (ch : Channel) (latched : Bool) (s t : State) : Prop where
  own    : t.chan c = ch
  others : KeepsOtherChannels c s t
  intr   : ∀ d : ChannelId, t.intr.getLsbD d.val = (s.intr.getLsbD d.val || (d == c && latched))
  rest   : ∃ chans intr faults, t = { s with chans := chans, intr := intr, faultLog := faults }

section

variable {c : ChannelId} {ch ch' : Channel} {latched : Bool} {s u t : State}

theorem writesChannel_self (s : State) (c : ChannelId) : WritesChannel c (s.chan c) false s s :=
  ⟨rfl, fun _ _ => rfl, by simp, _, _, _, rfl⟩

theorem writesChannel_setChan (s : State) (c : ChannelId) (ch : Channel) :
    WritesChannel c ch false s (s.setChan c ch) :=
  ⟨by simp, (keeps_setChan s c ch).1, by simp, _, _, _, rfl⟩

theorem writesChannel_latchWrap (s : State) (c : ChannelId) (wrapped : Bool) :
    WritesChannel c (s.chan c) wrapped s (s.latchWrap c wrapped) := by
  cases wrapped with
  | false => exact writesChannel_self s c
  | true =>
    refine ⟨rfl, fun _ _ => rfl, fun d => ?_, _, _, _, rfl⟩
    rw [State.latchWrap_intr, if_pos rfl, BitVec.getLsbD_or, channelBit_getLsbD, Bool.and_true]

/-- A channel replaced, and then a step that may latch. -/
theorem WritesChannel.trans (h : WritesChannel c ch false s u)
    (h' : WritesChannel c ch' latched u t) : WritesChannel c ch' latched s t := by
  refine ⟨h'.own, h.others.trans h'.others, fun d => ?_, ?_⟩
  · rw [h'.intr, h.intr, Bool.and_false, Bool.or_false]
  · obtain ⟨_, _, _, rfl⟩ := h.rest
    obtain ⟨_, _, _, rfl⟩ := h'.rest
    exact ⟨_, _, _, rfl⟩

theorem WritesChannel.chan_eq_ite (h : WritesChannel c ch latched s t) (d : ChannelId) :
    t.chan d = if d = c then ch else s.chan d := by
  split
  · next hd => rw [hd, h.own]
  · next hd => exact h.others d hd

theorem WritesChannel.keepsRest (h : WritesChannel c ch latched s t) :
    t.inte = s.inte ∧ t.intf = s.intf ∧ t.handler = s.handler ∧ t.firedLog = s.firedLog ∧
      t.seqFg = s.seqFg ∧ t.seqIrq = s.seqIrq := by
  obtain ⟨_, _, _, rfl⟩ := h.rest
  exact ⟨rfl, rfl, rfl, rfl, rfl, rfl⟩

end

/-! ### A count, as a function of its channel -/

/-- The channel after a count; with divider integer part 0 the count is a fault, and writes nothing. -/
def Channel.afterCount (ch : Channel) (x : CounterStepChoice) : Channel :=
  if ch.divInt = 0 then ch else ch.counted x

/-- The count is no fault, and wraps. -/
def Channel.countLatches (ch : Channel) (x : CounterStepChoice) : Bool :=
  ch.divInt != 0 && (ch.countResult x).wrapped

theorem writesChannel_count (s : State) (c : ChannelId) :
    WritesChannel c ((s.chan c).afterCount s.counterStep) ((s.chan c).countLatches s.counterStep) s
      (s.count c) := by
  unfold State.count Channel.afterCount Channel.countLatches
  by_cases h : (s.chan c).divInt = 0
  · simp only [h, if_true, bne_self_eq_false, Bool.false_and]
    exact ⟨rfl, fun _ _ => rfl, by simp, _, _, _, rfl⟩
  · simp only [h, if_false, bne_iff_ne.2 h, Bool.true_and]
    have hlatch := writesChannel_latchWrap (s.setChan c ((s.chan c).counted s.counterStep)) c
      ((s.chan c).countResult s.counterStep).wrapped
    rw [State.chan_setChan_same] at hlatch
    exact (writesChannel_setChan s c _).trans hlatch

/-! ### An event, as a function of its channel -/

/-- A step of channel `c` of the timer array. -/
def Event.IsOf (e : Event) (c : ChannelId) : Prop :=
  e = .tick c ∨ e = .advAck c ∨ e = .retAck c ∨ ∃ level counts, e = .pinB c level counts

/-- What an event writes to its channel before it counts. -/
def Event.prepare (e : Event) (ch : Channel) : Channel :=
  match e with
  | .advAck _ => if ch.advAckEnabled then ch.clearAdv else ch
  | .retAck _ => if ch.retAckEnabled then ch.clearRet else ch
  | .pinB _ level _ => ch.withPinB level
  | _ => ch

/-- The event counts its channel. -/
def Event.counts (e : Event) (ch : Channel) : Bool :=
  match e with
  | .tick _ => ch.tickEnabled
  | .advAck _ => ch.advAckEnabled
  | .pinB _ level counts => counts && ch.edgeMatches level && ch.running
  | _ => false

/-- The channel after an event. -/
def Event.chanAfter (e : Event) (x : CounterStepChoice) (ch : Channel) : Channel :=
  if e.counts ch then (e.prepare ch).afterCount x else e.prepare ch

/-- The event latches its channel's raw interrupt. -/
def Event.latches (e : Event) (x : CounterStepChoice) (ch : Channel) : Bool :=
  e.counts ch && (e.prepare ch).countLatches x

/-- A channel that is replaced by itself is left alone. -/
theorem State.setChan_self (s : State) (c : ChannelId) : s.setChan c (s.chan c) = s := by
  simp [State.setChan, State.chan, Vector.get_eq_getElem]

/-- Every event of a channel prepares it and then counts it or not. -/
theorem event_eq_prepare_count {e : Event} {c : ChannelId} (h : e.IsOf c) (s : State) :
    s.event e =
      if e.counts (s.chan c) then (s.setChan c (e.prepare (s.chan c))).count c
      else s.setChan c (e.prepare (s.chan c)) := by
  obtain rfl | rfl | rfl | ⟨level, counts, rfl⟩ := h
  · simp only [Event.prepare, State.setChan_self]; rfl
  · show s.advAck c = if (s.chan c).advAckEnabled then _ else _
    simp only [Event.prepare, State.advAck]
    split
    · rfl
    · rw [State.setChan_self]
  · show s.retAck c = s.setChan c (if (s.chan c).retAckEnabled then _ else _)
    unfold State.retAck
    split
    · rfl
    · rw [State.setChan_self]
  · rfl

/-- What a step of channel `c` writes. -/
theorem writesChannel_event {e : Event} {c : ChannelId} (h : e.IsOf c) (s : State) :
    WritesChannel c (e.chanAfter s.counterStep (s.chan c)) (e.latches s.counterStep (s.chan c)) s
      (s.event e) := by
  have hprepare := writesChannel_setChan s c (e.prepare (s.chan c))
  rw [event_eq_prepare_count h, Event.chanAfter, Event.latches]
  cases e.counts (s.chan c) with
  | false => exact hprepare
  | true =>
    have hcount := writesChannel_count (s.setChan c (e.prepare (s.chan c))) c
    rw [State.chan_setChan_same, State.setChan_counterStep] at hcount
    exact hprepare.trans hcount

/-! ### What the timer array keeps of a channel -/

/-- `TOP`, `DIV`, `CC` and bits 5:0 of `CSR` are unchanged, and a request may be cleared and not made
(R200). -/
structure Channel.KeepsSettings (a b : Channel) : Prop where
  top   : b.top = a.top
  div   : b.div = a.div
  cc    : b.cc = a.cc
  csr   : ∀ k, k < 6 → b.csr.getLsbD k = a.csr.getLsbD k
  phRet : b.phRet = true → a.phRet = true
  phAdv : b.phAdv = true → a.phAdv = true

namespace Channel.KeepsSettings

theorem refl (ch : Channel) : ch.KeepsSettings ch := ⟨rfl, rfl, rfl, fun _ _ => rfl, id, id⟩

theorem trans {a b d : Channel} (h : a.KeepsSettings b) (h' : b.KeepsSettings d) :
    a.KeepsSettings d :=
  ⟨h'.top.trans h.top, h'.div.trans h.div, h'.cc.trans h.cc,
    fun k hk => (h'.csr k hk).trans (h.csr k hk), h.phRet ∘ h'.phRet, h.phAdv ∘ h'.phAdv⟩

/-- Bits of `CSR` cleared by a mask that keeps bits 5:0. -/
theorem andCsr (ch : Channel) {mask : BitVec 8} (hmask : ∀ k < 6, mask.getLsbD k = true) :
    ch.KeepsSettings { ch with csr := ch.csr &&& mask } := by
  have hbit (k : Nat) (h : (ch.csr &&& mask).getLsbD k = true) : ch.csr.getLsbD k = true := by
    rw [BitVec.getLsbD_and, Bool.and_eq_true] at h
    exact h.1
  exact ⟨rfl, rfl, rfl, fun k hk => by rw [BitVec.getLsbD_and, hmask k hk, Bool.and_true],
    hbit 6, hbit 7⟩

theorem clearAdv (ch : Channel) : ch.KeepsSettings ch.clearAdv := andCsr ch (by decide)

theorem clearRet (ch : Channel) : ch.KeepsSettings ch.clearRet := andCsr ch (by decide)

theorem withPinB (ch : Channel) (level : Bool) : ch.KeepsSettings (ch.withPinB level) :=
  ⟨rfl, rfl, rfl, fun _ _ => rfl, id, id⟩

theorem afterCount (ch : Channel) (x : CounterStepChoice) : ch.KeepsSettings (ch.afterCount x) := by
  unfold Channel.afterCount
  split
  · exact refl ch
  · exact ⟨rfl, rfl, rfl, fun _ _ => rfl, id, id⟩

theorem prepare (e : Event) (ch : Channel) : ch.KeepsSettings (e.prepare ch) := by
  unfold Event.prepare
  split
  · split
    · exact clearAdv ch
    · exact refl ch
  · split
    · exact clearRet ch
    · exact refl ch
  · exact withPinB ch _
  · exact refl ch

theorem chanAfter (e : Event) (x : CounterStepChoice) (ch : Channel) :
    ch.KeepsSettings (e.chanAfter x ch) := by
  unfold Event.chanAfter
  split
  · exact (prepare e ch).trans (afterCount _ x)
  · exact prepare e ch

end Channel.KeepsSettings

/-! ### The statements -/

/-- A step whose turn is an event's runs the event on the state the turn starts from. -/
theorem step_event_inv {s t : State} {e : Event} {rest : List Turn}
    (hsched : s.schedule = .event e :: rest) (hstep : step s = .next t) :
    t = (s.beginTurn rest s.quantum).event e := by
  unfold step at hstep
  split at hstep
  · cases hstep
  · rw [turn, hsched] at hstep
    exact (Host.Outcome.next.inj hstep).symm

/-- Settles O58: the step writes its own channel, which keeps its settings whether it is prepared, counted
or both, and its latch, which is only ever set. -/
theorem timerArrayWritesOnlyItsOwn : Obligations.TimerArrayWritesOnlyItsOwn := by
  intro e s t rest he hsched hstep
  obtain ⟨c, hc⟩ : ∃ c, e.IsOf c := he
  have hwrites := writesChannel_event hc (s.beginTurn rest s.quantum)
  rw [← step_event_inv hsched hstep] at hwrites
  have hkeeps (d : ChannelId) : (s.chan d).KeepsSettings (t.chan d) := by
    rw [hwrites.chan_eq_ite d]
    split
    · next hd => rw [hd]; exact Channel.KeepsSettings.chanAfter e _ _
    · exact Channel.KeepsSettings.refl _
  obtain ⟨hinte, hintf, hhandler, hfired, hfg, hirq⟩ := hwrites.keepsRest
  refine ⟨fun d => ?_, hinte, hintf, hhandler, fun d hd => ?_, hfired, hfg, hirq⟩
  · exact ⟨(hkeeps d).top, (hkeeps d).div, (hkeeps d).cc, (hkeeps d).csr, (hkeeps d).phRet,
      (hkeeps d).phAdv⟩
  · rw [hwrites.intr, State.beginTurn_intr, hd, Bool.true_or]

/-- Settles O59: the channel and the latch that a step leaves are functions of the channel it found and the
choice of `CounterStep`. -/
theorem channelsAreIndependent : Obligations.ChannelsAreIndependent := by
  intro c e hc
  refine ⟨fun s => ?_, fun s t hchan hintr hstep => ?_⟩
  · have hwrites := writesChannel_event hc s
    obtain ⟨hinte, hintf, -⟩ := hwrites.keepsRest
    refine ⟨hwrites.others, fun d hd => ?_, hinte, hintf⟩
    rw [hwrites.intr, beq_false_of_ne hd, Bool.false_and, Bool.or_false]
  · have hs := writesChannel_event hc s
    have ht := writesChannel_event hc t
    exact ⟨by rw [hs.own, ht.own, hchan, hstep], by rw [hs.intr, ht.intr, hintr, hchan, hstep]⟩

end Sys2Proof.Machine
end

section
/-! PROOFS. `force_interrupt` and then `handle_interrupt` (60_exceptions.md R220). With a silent handler the
dispatcher serves a channel of its snapshot in four micro-steps: notify, clear the latch, read and write
the forced bits. So a whole dispatch is that service folded over the pending channels in ascending order,
and what it leaves is read off the fold. -/

namespace Sys2Proof.Machine

open Sys2Proof

/-! ### The forcing write -/

theorem foreground_of_idle {s : State} (hi : s.seqIrq = .idle) (hf : s.seqFg = .idle) :
    s.ctx = .foreground ∧ s.seq = .idle := by
  have hctx : s.ctx = .foreground := State.ctx_foreground hi (by rw [hf]; rfl)
  exact ⟨hctx, (State.seq_of_foreground hctx).trans hf⟩

/-- The status after `force_interrupt`: the channel is pending, whatever its enable bit is. -/
theorem pending_forced (s : State) (c : ChannelId) :
    (s.regWrite .intf (wideWithBits (s.regRead .intf) (channelBit c))).pending c = true := by
  have hbit := wideWithBits_getLsbD s.intf (channelBit c) c
  rw [channelBit_getLsbD, beq_self_eq_true, Bool.or_true] at hbit
  rw [State.pending, State.ints, intStatus, BitVec.getLsbD_or]
  exact Bool.or_eq_true_iff.2 (.inr hbit)

/-- `force_interrupt` presented by an idle foreground leaves its channel pending and the sequencers idle, and
touches nothing that a dispatch looks at. -/
theorem exec_forceInterrupt_of_idle {s : State} {c : ChannelId} (hi : s.seqIrq = .idle)
    (hf : s.seqFg = .idle) (hq : 2 ≤ s.quantum) :
    ∃ t, exec (.forceInterrupt c) s = .next t ∧ t.seqIrq = .idle ∧ t.seqFg = .idle ∧
      t.pending c = true ∧ t.handler = s.handler ∧ t.firedLog = s.firedLog ∧
      t.quantum = s.quantum ∧ (s.HandlersSilent → t.HandlersSilent) := by
  obtain ⟨hctx, hseq⟩ := foreground_of_idle hi hf
  rw [exec_of_bodyOf rfl, runOp_rmwBody ⟨by rw [hctx]; decide, hseq⟩ hq,
    State.respond_of_foreground ((State.ctx_regWrite s _ _).trans hctx)]
  exact ⟨_, rfl, hi, rfl, pending_forced s c, rfl, rfl, rfl, id⟩

/-! ### The channels a dispatch has still to serve -/

/-- The channels of a snapshot from ordinal `k` on, in the order the dispatcher takes them (R218). -/
def channelsFrom (snapshot : BitVec 8) (k : Nat) : List ChannelId :=
  (List.finRange 8).filter fun c => decide (k ≤ c.val) && snapshot.getLsbD c.val

theorem nextPending_eq_head? (snapshot : BitVec 8) (k : Nat) :
    nextPending snapshot k = (channelsFrom snapshot k).head? :=
  List.head?_filter.symm

theorem channelsFrom_ints_zero (s : State) : channelsFrom s.ints 0 = s.pendingChannels := by
  simp [channelsFrom, State.pendingChannels, State.pending]

/-- Behind the first channel come the channels after it, because `List.finRange` ascends. -/
theorem channelsFrom_succ_of_cons {snapshot : BitVec 8} {k : Nat} {c : ChannelId}
    {l : List ChannelId} (h : channelsFrom snapshot k = c :: l) :
    channelsFrom snapshot (c.val + 1) = l := by
  obtain ⟨before, after, hsplit, -, hc, rfl⟩ := List.filter_eq_cons_iff.1 h
  obtain ⟨hk, -⟩ : k ≤ c.val ∧ snapshot.getLsbD c.val = true := by simpa using hc
  have hasc : (before ++ c :: after).Pairwise (· < ·) := hsplit ▸ List.pairwise_lt_finRange 8
  obtain ⟨-, hafter, hbefore⟩ := List.pairwise_append.1 hasc
  have hbefore : ∀ x ∈ before, ¬c.val + 1 ≤ x.val := fun x hx =>
    Nat.not_le.2 (Nat.lt_succ_of_lt (hbefore x hx c List.mem_cons_self))
  have hafter : ∀ x ∈ after, c.val + 1 ≤ x.val := (List.pairwise_cons.1 hafter).1
  rw [channelsFrom, hsplit, List.filter_append, List.filter_eq_nil_iff.2, List.nil_append,
    List.filter_cons_of_neg (by simp)]
  · refine List.filter_congr fun x hx => ?_
    have hx := hafter x hx
    simp [hx, show k ≤ x.val by omega]
  · intro x hx
    simp [hbefore x hx]

/-! ### The service of one channel -/

/-- Steps 2c and 2d of R178 with nothing between them. -/
def State.unforce (s : State) (c : ChannelId) : State :=
  s.regWrite .intf (wideWithoutBits (s.regRead .intf) (channelBit c))

/-- Steps 2a to 2d of R178 for channel `c`, with a handler that issues nothing. -/
def State.serve (h : Handle) (s : State) (c : ChannelId) : State :=
  ((s.recordCall h c).regWrite .intr ((channelBit c).setWidth 32)).unforce c

section Serve

variable {h : Handle} {s : State}

@[simp] theorem serve_firedLog (c : ChannelId) :
    (s.serve h c).firedLog = s.firedLog ++ [(h, c)] := rfl

@[simp] theorem serve_handler (c : ChannelId) : (s.serve h c).handler = s.handler := rfl

theorem State.HandlersSilent.serve (hs : s.HandlersSilent) (c : ChannelId) :
    (s.serve h c).HandlersSilent :=
  hs.recordCall h c

/-- The service takes its own channel, and no other, out of the status. -/
theorem serve_pending (c d : ChannelId) : (s.serve h c).pending d = (s.pending d && d != c) := by
  have hintf : (s.serve h c).intf.getLsbD d.val = (s.intf.getLsbD d.val && !(d == c)) := by
    rw [← channelBit_getLsbD]; exact wideWithoutBits_getLsbD s.intf (channelBit c) d
  have hintr : (s.serve h c).intr.getLsbD d.val = (s.intr.getLsbD d.val && !(d == c)) := by
    rw [← channelBit_getLsbD]; simp [State.serve, State.unforce, State.regWrite]
  have hinte : (s.serve h c).inte = s.inte := rfl
  simp only [State.pending, State.ints, intStatus, BitVec.getLsbD_or, BitVec.getLsbD_and, hintf,
    hintr, hinte, bne]
  cases d == c <;> simp

/-- The calls are made in the order of the channels. -/
theorem foldl_serve_firedLog (l : List ChannelId) :
    ∀ s : State, (l.foldl (State.serve h) s).firedLog = s.firedLog ++ l.map fun c => (h, c) := by
  induction l with
  | nil => simp
  | cons c l ih => simp [ih]

/-- No channel served is pending afterwards. -/
theorem foldl_serve_pending (d : ChannelId) (l : List ChannelId) :
    ∀ s : State, (l.foldl (State.serve h) s).pending d = (s.pending d && decide (d ∉ l)) := by
  induction l with
  | nil => simp
  | cons c l ih =>
    intro s
    rw [List.foldl_cons, ih, serve_pending, Bool.and_assoc]
    simp [bne, Bool.beq_eq_decide_eq]

/-! ### A whole dispatch -/

theorem dispatchBody_notify_of_silent {d : Dispatch} (hp : d.phase = .notify)
    (hh : s.handler = some h) (hs : s.HandlersSilent) :
    dispatchBody d s = .next { d with phase := .clearRaw } (s.recordCall h d.chan) := by
  simp [dispatchBody, hp, notifyHandler, hh, runHandler, hs.call]

/-- Four micro-steps serve the channel and go to the next one of the snapshot. -/
theorem runMicros_dispatch_serve {d : Dispatch} (hp : d.phase = .notify) (hh : s.handler = some h)
    (hs : s.HandlersSilent) (n : Nat) :
    ∃ d' : Dispatch, d'.snapshot = d.snapshot ∧
      runMicros suspendDispatch dispatchBody (n + 4) d s =
        runMicros suspendDispatch dispatchBody n (d'.from (d.chan.val + 1)) (s.serve h d.chan) :=
  ⟨{ d with phase := .unforceWrite, tmp := s.regRead .intf }, rfl, by
    rw [runMicros_next_succ (dispatchBody_notify_of_silent hp hh hs)]; rfl⟩

/-- From the step to its next channel on, a dispatch serves the rest of its snapshot and responds, in a
turn with four further micro-steps for each channel. -/
theorem runMicros_dispatch_from (l : List ChannelId) :
    ∀ (d : Dispatch) (k n : Nat) (s : State), channelsFrom d.snapshot k = l → 4 * l.length ≤ n →
      s.handler = some h → s.HandlersSilent →
      runMicros suspendDispatch dispatchBody n (d.from k) s =
        (l.foldl (State.serve h) s).respond (.ok 0) := by
  induction l with
  | nil =>
    intro d k n s hl _ _ _
    have hfrom : d.from k = { d with phase := .respond } := by
      simp [Dispatch.from, nextPending_eq_head?, hl]
    rw [hfrom]
    exact runMicros_done rfl
  | cons c l ih =>
    intro d k n s hl hn hh hs
    have hfrom : d.from k = { d with chan := c, phase := .notify } := by
      simp [Dispatch.from, nextPending_eq_head?, hl]
    obtain ⟨m, rfl⟩ := Nat.exists_eq_add_of_le' (show 4 ≤ n by rw [List.length_cons] at hn; omega)
    obtain ⟨d', hsnap, hserve⟩ :=
      runMicros_dispatch_serve (d := { d with chan := c, phase := .notify }) rfl hh hs m
    rw [hfrom, hserve, List.foldl_cons]
    refine ih d' _ m _ ?_ (by rw [List.length_cons] at hn; omega) hh (hs.serve c)
    rw [hsnap]
    exact channelsFrom_succ_of_cons hl

/-- `handle_interrupt` presented by an idle foreground serves every pending channel and responds: 34
micro-steps are enough for all eight. -/
theorem exec_handleInterrupt_of_idle (hi : s.seqIrq = .idle) (hf : s.seqFg = .idle)
    (hh : s.handler = some h) (hs : s.HandlersSilent) (hq : 34 ≤ s.quantum) :
    exec .handleInterrupt s =
      .next ((s.pendingChannels.foldl (State.serve h) s).respond (.ok 0)) := by
  obtain ⟨hctx, hseq⟩ := foreground_of_idle hi hf
  obtain ⟨n, hn⟩ := Nat.exists_eq_add_of_le' (show 2 ≤ s.quantum by omega)
  have hfrom : channelsFrom ((s.regRead .ints).setWidth 8) 0 = s.pendingChannels := by
    rw [← channelsFrom_ints_zero]; simp [State.regRead]
  have hlen : s.pendingChannels.length ≤ 8 := List.length_filter_le _ _
  calc exec .handleInterrupt s
    _ = .next (enterDispatch s) := by
      simp only [exec, execHandleInterrupt, handleInterruptTurn, hctx, hseq]
    _ = .next (runMicros suspendDispatch dispatchBody n
          ({ Dispatch.start with snapshot := (s.regRead .ints).setWidth 8 }.from 0) s) := by
      rw [enterDispatch, hn]; rfl
    _ = .next ((s.pendingChannels.foldl (State.serve h) s).respond (.ok 0)) := by
      rw [runMicros_dispatch_from _ _ 0 n s hfrom (by omega) hh hs]

end Serve

/-! ### The statement -/

theorem pending_respond (s : State) (a : Answer) (c : ChannelId) :
    (s.respond a).pending c = s.pending c := by
  simp [State.pending, State.ints]

theorem mem_pendingChannels {s : State} {c : ChannelId} :
    c ∈ s.pendingChannels ↔ s.pending c = true := by
  simp [State.pendingChannels]

/-- A call list that follows the pending channels has one call for each. -/
theorem count_pendingChannels_calls {s : State} {c : ChannelId} (hc : s.pending c = true)
    (h : Handle) : (s.pendingChannels.map fun d => (h, d)).count (h, c) = 1 := by
  rw [List.count_map_of_injective _ (fun d => (h, d)) (Prod.mk_right_injective h)]
  exact List.count_eq_one_of_mem ((List.nodup_finRange 8).filter _) (mem_pendingChannels.2 hc)

/-- Settles O49: after the forcing write the channel is pending, so it is one of the channels that the
dispatch serves, each once, and its service takes it out of the status. -/
theorem forcedInterruptIsHandledOnce : Obligations.ForcedInterruptIsHandledOnce := by
  intro c h s hi hf hh hs hq
  obtain ⟨t, hforce, hti, htf, hpending, hhandler, hfired, hquantum, hsilent⟩ :=
    exec_forceInterrupt_of_idle (c := c) hi hf (by omega)
  have hdispatch := exec_handleInterrupt_of_idle hti htf (hhandler.trans hh) (hsilent hs)
    (hquantum ▸ hq)
  refine ⟨t, _, t.pendingChannels.map fun d => (h, d), hforce, hdispatch, ?_,
    count_pendingChannels_calls hpending h, ?_, ?_⟩
  · rw [State.respond_firedLog, foldl_serve_firedLog, hfired]
  · intro x hx
    obtain ⟨d, -, rfl⟩ := List.mem_map.1 hx
    rfl
  · rw [pending_respond, foldl_serve_pending, decide_eq_false (not_not.2
      (mem_pendingChannels.2 hpending)), Bool.and_false]

end Sys2Proof.Machine
end

section
/-! PROOFS. The encoding (30_encoding.md R67 to R71). Each operand reader of the decoder accepts exactly the
values that the encoder writes for that operand, and answers the operand. So each row of the opcode map
accepts exactly the target and the payload of its operations, and decoding and encoding undo each other. -/

namespace Sys2Proof

/-! ### What each reader accepts -/

theorem except_bind_eq_ok {ε α β : Type} {x : Except ε α} {f : α → Except ε β} {b : β} :
    (x >>= f) = .ok b ↔ ∃ a, x = .ok a ∧ f a = .ok b := by
  cases x with
  | error e => exact ⟨nofun, nofun⟩
  | ok a => exact ⟨fun h => ⟨a, rfl, h⟩, fun ⟨_, hx, h⟩ => by cases hx; exact h⟩

theorem except_pure_eq_ok {ε α : Type} {a b : α} :
    (pure a : Except ε α) = .ok b ↔ a = b :=
  ⟨fun h => Except.ok.inj h, fun h => congrArg _ h⟩

theorem toNat_ofNat_of_lt {n v : Nat} (h : v < 2 ^ n) : (BitVec.ofNat n v).toNat = v := by
  rw [BitVec.toNat_ofNat, Nat.mod_eq_of_lt h]

theorem mustBeZero_eq_ok {v : Nat} {u : Unit} : mustBeZero v = .ok u ↔ v = 0 := by
  simp [mustBeZero]

theorem channelOperand_eq_ok {v : Nat} {c : ChannelId} : channelOperand v = .ok c ↔ v = c.val := by
  refine ⟨fun h => ?_, fun h => h ▸ channelOperand_val c⟩
  unfold channelOperand at h
  split at h
  · exact congrArg Fin.val (Except.ok.inj h)
  · cases h

theorem boolOperand_eq_ok {v : Nat} {b : Bool} : boolOperand v = .ok b ↔ v = b.toNat := by
  refine ⟨fun h => ?_, fun h => h ▸ boolOperand_toNat b⟩
  unfold boolOperand at h
  split at h <;> cases h <;> rfl

theorem subPinOperand_eq_ok {v : Nat} {sp : SubPin} : subPinOperand v = .ok sp ↔ v = sp.toNat := by
  refine ⟨fun h => ?_, fun h => h ▸ subPinOperand_toNat sp⟩
  unfold subPinOperand at h
  split at h <;> cases h <;> rfl

theorem divModeOfNat_eq_some {v : Nat} {m : DivMode} (h : divModeOfNat v = some m) : v = m.toNat := by
  unfold divModeOfNat at h
  split at h <;> cases h <;> rfl

theorem divModeOperand_eq_ok {v : Nat} {m : DivMode} : divModeOperand v = .ok m ↔ v = m.toNat := by
  refine ⟨fun h => ?_, fun h => h ▸ divModeOperand_toNat m⟩
  unfold divModeOperand at h
  split at h
  · next hm => cases h; exact divModeOfNat_eq_some hm
  · cases h

theorem value16Operand_eq_ok {v : Nat} {x : BitVec 16} :
    value16Operand v = .ok x ↔ v = x.toNat := by
  refine ⟨fun h => ?_, fun h => h ▸ value16Operand_toNat x⟩
  unfold value16Operand at h
  split at h
  · next hv => cases h; exact (toNat_ofNat_of_lt hv).symm
  · cases h

theorem dividerOperand_eq_ok {v : Nat} {x : BitVec 8} : dividerOperand v = .ok x ↔ v = x.toNat := by
  refine ⟨fun h => ?_, fun h => h ▸ dividerOperand_toNat x⟩
  unfold dividerOperand at h
  split at h
  · next hv => cases h; exact (toNat_ofNat_of_lt hv).symm
  · cases h

theorem offsetOperand_eq_ok {v : Nat} {x : BitVec 8} :
    offsetOperand v = .ok x ↔ v = x.toNat ∧ (Instr.readReg x).WellFormed := by
  simp only [offsetOperand, Instr.WellFormed, Instr.wellFormed, offsetAligned, offsetInBank,
    Bool.and_eq_true, beq_iff_eq, decide_eq_true_eq]
  constructor
  · intro h
    split at h
    · next hv =>
      cases h
      rw [toNat_ofNat_of_lt (by omega)]
      exact ⟨rfl, hv.2, hv.1⟩
    · cases h
  · rintro ⟨rfl, hmod, hle⟩
    rw [if_pos ⟨hle, hmod⟩, BitVec.ofNat_toNat, BitVec.setWidth_eq]

theorem payloadT_eq_ok {pl : Nat} {u : Unit} : payloadT pl = .ok u ↔ pl = 0 :=
  mustBeZero_eq_ok

theorem payloadTV_eq_ok {pl v : Nat} : payloadTV pl = .ok v ↔ pl = v ∧ v < 2 ^ 32 := by
  refine ⟨fun h => ?_, fun ⟨h, hv⟩ => by rw [h, payloadTV_of_lt hv]⟩
  obtain ⟨_, hz, h⟩ := except_bind_eq_ok.1 h
  rw [mustBeZero_eq_ok] at hz
  rw [except_pure_eq_ok] at h
  omega

theorem payloadTVV_eq_ok {pl : Nat} {v : Nat × Nat} :
    payloadTVV pl = .ok v ↔ pl = twoValues v.1 v.2 ∧ v.1 < 2 ^ 32 ∧ v.2 < 2 ^ 32 := by
  refine ⟨fun h => ?_, fun ⟨h, hv1, hv2⟩ => h ▸ payloadTVV_twoValues hv1 hv2⟩
  obtain ⟨_, hz, h⟩ := except_bind_eq_ok.1 h
  rw [mustBeZero_eq_ok] at hz
  rw [except_pure_eq_ok] at h
  subst h
  simp only [twoValues]
  omega

theorem flagField_toNat (pl lo : Nat) : (flagField pl lo).toNat = pl / 2 ^ lo % 2 := by
  unfold flagField
  rcases Nat.mod_two_eq_zero_or_one (pl / 2 ^ lo) with h | h <;> rw [h] <;> rfl

theorem payloadCFG_eq_ok {pl : Nat} {s : Snapshot} : payloadCFG pl = .ok s ↔ pl = s.payload := by
  refine ⟨fun h => ?_, fun h => h ▸ payloadCFG_payload s⟩
  obtain ⟨_, hz, h⟩ := except_bind_eq_ok.1 h
  obtain ⟨m, hm, h⟩ := except_bind_eq_ok.1 h
  rw [mustBeZero_eq_ok] at hz
  rw [divModeOperand_eq_ok] at hm
  rw [except_pure_eq_ok] at h
  subst h
  simp only [Snapshot.payload, flagField_toNat, ← hm, BitVec.toNat_ofNat]
  omega

/-! ### What each form of row accepts -/

section Rows

variable {tgt pl : Nat} {i : Instr}

theorem readChannelT_eq_ok {mk : ChannelId → Instr} :
    readChannelT tgt pl mk = .ok i ↔ ∃ c, i = mk c ∧ tgt = c.val ∧ pl = 0 := by
  simp only [readChannelT, except_bind_eq_ok, except_pure_eq_ok, channelOperand_eq_ok, payloadT_eq_ok]
  exact ⟨fun ⟨c, ht, _, hp, hi⟩ => ⟨c, hi.symm, ht, hp⟩, fun ⟨c, hi, ht, hp⟩ => ⟨c, ht, (), hp, hi.symm⟩⟩

theorem readChannel16_eq_ok {mk : ChannelId → BitVec 16 → Instr} :
    readChannel16 tgt pl mk = .ok i ↔ ∃ c v, i = mk c v ∧ tgt = c.val ∧ pl = v.toNat := by
  simp only [readChannel16, except_bind_eq_ok, except_pure_eq_ok, channelOperand_eq_ok, payloadTV_eq_ok,
    value16Operand_eq_ok]
  exact ⟨fun ⟨c, ht, _, ⟨hp, _⟩, v, hv, hi⟩ => ⟨c, v, hi.symm, ht, hp.trans hv⟩,
    fun ⟨c, v, hi, ht, hp⟩ => ⟨c, ht, _, ⟨hp, value16_lt v⟩, v, rfl, hi.symm⟩⟩

theorem readChannelBool_eq_ok {mk : ChannelId → Bool → Instr} :
    readChannelBool tgt pl mk = .ok i ↔ ∃ c b, i = mk c b ∧ tgt = c.val ∧ pl = b.toNat := by
  simp only [readChannelBool, except_bind_eq_ok, except_pure_eq_ok, channelOperand_eq_ok,
    payloadTV_eq_ok, boolOperand_eq_ok]
  exact ⟨fun ⟨c, ht, _, ⟨hp, _⟩, b, hb, hi⟩ => ⟨c, b, hi.symm, ht, hp.trans hb⟩,
    fun ⟨c, b, hi, ht, hp⟩ => ⟨c, ht, _, ⟨hp, bool_toNat_lt b⟩, b, rfl, hi.symm⟩⟩

theorem readTarget_eq_ok {mk : BitVec 8 → Instr} (htgt : tgt < 2 ^ 8) :
    readTarget tgt pl mk = .ok i ↔ ∃ v, i = mk v ∧ tgt = v.toNat ∧ pl = 0 := by
  simp only [readTarget, except_bind_eq_ok, except_pure_eq_ok, payloadT_eq_ok]
  constructor
  · rintro ⟨_, hp, hi⟩
    exact ⟨_, hi.symm, (toNat_ofNat_of_lt htgt).symm, hp⟩
  · rintro ⟨v, hi, ht, hp⟩
    exact ⟨(), hp, by rw [hi, ht, BitVec.ofNat_toNat, BitVec.setWidth_eq]⟩

theorem readValue32_eq_ok {mk : BitVec 32 → Instr} :
    readValue32 tgt pl mk = .ok i ↔ ∃ v, i = mk v ∧ tgt = 0 ∧ pl = v.toNat := by
  simp only [readValue32, except_bind_eq_ok, except_pure_eq_ok, mustBeZero_eq_ok, payloadTV_eq_ok]
  constructor
  · rintro ⟨_, ht, v, ⟨hp, hv⟩, hi⟩
    exact ⟨_, hi.symm, ht, hp.trans (toNat_ofNat_of_lt hv).symm⟩
  · rintro ⟨v, hi, ht, hp⟩
    exact ⟨(), ht, _, ⟨hp, v.isLt⟩, by rw [hi, BitVec.ofNat_toNat, BitVec.setWidth_eq]⟩

theorem readNothing_eq_ok {j : Instr} :
    readNothing tgt pl j = .ok i ↔ i = j ∧ tgt = 0 ∧ pl = 0 := by
  simp only [readNothing, except_bind_eq_ok, except_pure_eq_ok, mustBeZero_eq_ok]
  exact ⟨fun ⟨_, ht, _, hp, hi⟩ => ⟨hi.symm, ht, hp⟩, fun ⟨hi, ht, hp⟩ => ⟨(), ht, (), hp, hi.symm⟩⟩

end Rows

/-! ### Decoding an encoded operation -/

/-- Settles O1, by the row of each operation: its reader accepts the operation's target and payload. -/
theorem decodeOfEncodeIsIdentity : Obligations.DecodeOfEncodeIsIdentity := by
  intro i hwf
  rw [decode_encode]
  cases i with
  | mapPin pin => exact (readTarget_eq_ok pin.isLt).2 ⟨pin, rfl, rfl, rfl⟩
  | pinOf c sp =>
    refine except_bind_eq_ok.2 ⟨c, channelOperand_val c, except_bind_eq_ok.2
      ⟨_, payloadTV_of_lt (subPin_toNat_lt sp), except_bind_eq_ok.2 ⟨sp, subPinOperand_toNat sp, rfl⟩⟩⟩
  | setEnabled c en => exact readChannelBool_eq_ok.2 ⟨c, en, rfl, rfl, rfl⟩
  | setPhCorrect c ph => exact readChannelBool_eq_ok.2 ⟨c, ph, rfl, rfl, rfl⟩
  | setInvert c invA invB =>
    exact decodeFields_setInvert c invA invB
      (payloadTVV_twoValues (bool_toNat_lt invA) (bool_toNat_lt invB))
  | setDivMode c mode =>
    have hlt : mode.toNat < 2 ^ 32 := Nat.lt_trans (divMode_toNat_lt mode) (by decide)
    exact except_bind_eq_ok.2 ⟨c, channelOperand_val c, except_bind_eq_ok.2
      ⟨_, payloadTV_of_lt hlt, except_bind_eq_ok.2 ⟨mode, divModeOperand_toNat mode, rfl⟩⟩⟩
  | setDivider c divInt divFrac =>
    exact decodeFields_setDivider c divInt divFrac
      (payloadTVV_twoValues (value8_lt divInt) (value8_lt divFrac))
  | setCompareA c value => exact readChannel16_eq_ok.2 ⟨c, value, rfl, rfl, rfl⟩
  | setCompareB c value => exact readChannel16_eq_ok.2 ⟨c, value, rfl, rfl, rfl⟩
  | setTop c value => exact readChannel16_eq_ok.2 ⟨c, value, rfl, rfl, rfl⟩
  | configure c snap => exact decodeFields_configure c snap (payloadCFG_payload snap)
  | solveTopDivider freq => exact readValue32_eq_ok.2 ⟨freq, rfl, rfl, rfl⟩
  | solveCompare top duty =>
    exact decodeFields_solveCompare top duty (payloadTVV_twoValues (value16_lt top) duty.isLt)
  | start pin freq duty =>
    exact decodeFields_start pin freq duty (payloadTVV_twoValues freq.isLt duty.isLt)
  | stop pin => exact (readTarget_eq_ok pin.isLt).2 ⟨pin, rfl, rfl, rfl⟩
  | advancePhase c => exact readChannelT_eq_ok.2 ⟨c, rfl, rfl, rfl⟩
  | retardPhase c => exact readChannelT_eq_ok.2 ⟨c, rfl, rfl, rfl⟩
  | getCounter c => exact readChannelT_eq_ok.2 ⟨c, rfl, rfl, rfl⟩
  | setCounter c value => exact readChannel16_eq_ok.2 ⟨c, value, rfl, rfl, rfl⟩
  | maskEnable bitmask => exact (readTarget_eq_ok bitmask.isLt).2 ⟨bitmask, rfl, rfl, rfl⟩
  | enableInterrupt c => exact readChannelT_eq_ok.2 ⟨c, rfl, rfl, rfl⟩
  | disableInterrupt c => exact readChannelT_eq_ok.2 ⟨c, rfl, rfl, rfl⟩
  | forceInterrupt c => exact readChannelT_eq_ok.2 ⟨c, rfl, rfl, rfl⟩
  | unforceInterrupt c => exact readChannelT_eq_ok.2 ⟨c, rfl, rfl, rfl⟩
  | clearInterrupt c => exact readChannelT_eq_ok.2 ⟨c, rfl, rfl, rfl⟩
  | setHandler handle => exact readValue32_eq_ok.2 ⟨handle, rfl, rfl, rfl⟩
  | handleInterrupt => exact readNothing_eq_ok.2 ⟨rfl, rfl, rfl⟩
  | getIntStatus => exact readNothing_eq_ok.2 ⟨rfl, rfl, rfl⟩
  | readReg offset =>
    exact except_bind_eq_ok.2 ⟨(), rfl, except_bind_eq_ok.2
      ⟨_, payloadTV_of_lt (value8_lt offset), except_bind_eq_ok.2
        ⟨offset, offsetOperand_eq_ok.2 ⟨rfl, hwf⟩, rfl⟩⟩⟩

/-! ### Encoding a decoded word -/

/-- The operation stands for the three fields, and a word can present it. -/
def Instr.HasFields (i : Instr) (op tgt pl : Nat) : Prop :=
  i.opcode = op ∧ i.target = tgt ∧ i.payload = pl ∧ i.WellFormed

/-- A row answers only an operation whose fields are those it read. -/
theorem decodeFields_hasFields {op tgt pl : Nat} {i : Instr} (htgt : tgt < 2 ^ 8)
    (h : decodeFields op tgt pl = .ok i) : i.HasFields op tgt pl := by
  unfold decodeFields at h
  split at h
  case h_2 =>
    simp only [except_bind_eq_ok, except_pure_eq_ok, channelOperand_eq_ok, payloadTV_eq_ok,
      subPinOperand_eq_ok] at h
    obtain ⟨c, rfl, v, ⟨rfl, -⟩, sp, rfl, rfl⟩ := h
    exact ⟨rfl, rfl, rfl, rfl⟩
  case h_5 =>
    simp only [except_bind_eq_ok, except_pure_eq_ok, channelOperand_eq_ok, payloadTVV_eq_ok,
      boolOperand_eq_ok] at h
    obtain ⟨c, rfl, v, ⟨rfl, -⟩, a, ha, b, hb, rfl⟩ := h
    exact ⟨rfl, rfl, by rw [ha, hb]; rfl, rfl⟩
  case h_6 =>
    simp only [except_bind_eq_ok, except_pure_eq_ok, channelOperand_eq_ok, payloadTV_eq_ok,
      divModeOperand_eq_ok] at h
    obtain ⟨c, rfl, v, ⟨rfl, -⟩, m, rfl, rfl⟩ := h
    exact ⟨rfl, rfl, rfl, rfl⟩
  case h_7 =>
    simp only [except_bind_eq_ok, except_pure_eq_ok, channelOperand_eq_ok, payloadTVV_eq_ok,
      dividerOperand_eq_ok] at h
    obtain ⟨c, rfl, v, ⟨rfl, -⟩, a, ha, b, hb, rfl⟩ := h
    exact ⟨rfl, rfl, by rw [ha, hb]; rfl, rfl⟩
  case h_11 =>
    simp only [except_bind_eq_ok, except_pure_eq_ok, channelOperand_eq_ok, payloadCFG_eq_ok] at h
    obtain ⟨c, rfl, snap, rfl, rfl⟩ := h
    exact ⟨rfl, rfl, rfl, rfl⟩
  case h_13 =>
    simp only [except_bind_eq_ok, except_pure_eq_ok, mustBeZero_eq_ok, payloadTVV_eq_ok,
      value16Operand_eq_ok] at h
    obtain ⟨-, rfl, v, ⟨rfl, -, hv⟩, top, htop, rfl⟩ := h
    refine ⟨rfl, rfl, ?_, rfl⟩
    rw [htop, Instr.payload, toNat_ofNat_of_lt hv]
  case h_14 =>
    simp only [except_bind_eq_ok, except_pure_eq_ok, payloadTVV_eq_ok] at h
    obtain ⟨v, ⟨rfl, hv1, hv2⟩, rfl⟩ := h
    refine ⟨rfl, toNat_ofNat_of_lt htgt, ?_, rfl⟩
    rw [Instr.payload, toNat_ofNat_of_lt hv1, toNat_ofNat_of_lt hv2]
  case h_29 =>
    simp only [except_bind_eq_ok, except_pure_eq_ok, mustBeZero_eq_ok, payloadTV_eq_ok,
      offsetOperand_eq_ok] at h
    obtain ⟨-, rfl, v, ⟨rfl, -⟩, o, ⟨rfl, hwf⟩, rfl⟩ := h
    exact ⟨rfl, rfl, rfl, hwf⟩
  case h_30 => cases h
  all_goals
    simp only [readTarget_eq_ok htgt, readChannelBool_eq_ok, readChannel16_eq_ok, readValue32_eq_ok,
      readChannelT_eq_ok, readNothing_eq_ok] at h
  case h_3 | h_4 | h_8 | h_9 | h_10 | h_19 => obtain ⟨c, v, rfl, rfl, rfl⟩ := h; exact ⟨rfl, rfl, rfl, rfl⟩
  case h_27 | h_28 => obtain ⟨rfl, rfl, rfl⟩ := h; exact ⟨rfl, rfl, rfl, rfl⟩
  all_goals obtain ⟨v, rfl, rfl, rfl⟩ := h; exact ⟨rfl, rfl, rfl, rfl⟩

/-- Settles O2: the operation's three fields are those of the word, and a word is its three fields. -/
theorem encodeOfDecodeIsIdentity : Obligations.EncodeOfDecodeIsIdentity := by
  intro w i h
  have htgt : tgtField w < 2 ^ 8 := Nat.mod_lt _ (by decide)
  obtain ⟨hop, htgt, hpl, hwf⟩ := decodeFields_hasFields htgt h
  refine ⟨?_, hwf⟩
  rw [encode, hop, htgt, hpl, commandWord_fields]

/-- Settles O3, each word by evaluation. -/
theorem exampleWordsDecodeToTheirOperations : Obligations.ExampleWordsDecodeToTheirOperations := by
  unfold Obligations.ExampleWordsDecodeToTheirOperations
  decide

end Sys2Proof
end

section
/-! PROOFS. A step of the machine (10_state.md R22, 60_exceptions.md R219, R226). `step` is unfolded here
once: forwards into an equation for each kind of turn, and backwards into `step_cases`, the list of what a
step that answers a next state has done. The statements on a step follow from these. -/

namespace Sys2Proof.Machine

open Sys2Proof

/-! ### A step forwards -/

section Forwards

variable {s : State} {n : Nat} {rest : List Turn}

theorem step_of_faultless (h : s.Faultless) : step s = turn s := by
  unfold step
  rw [h]

/-- The CPU's turn: listed with its length, or unlisted with the full length. -/
theorem step_cpuTurn (h : s.Faultless)
    (hsched : s.schedule = .cpu n :: rest ∨ (s.schedule = [] ∧ n = Config.fullQuantum ∧ rest = [])) :
    step s = cpuTurn (s.beginTurn rest n) := by
  rw [step_of_faultless h, turn]
  obtain hsched | ⟨hsched, rfl, rfl⟩ := hsched <;> rw [hsched]

theorem step_eventTurn {e : Event} (h : s.Faultless) (hsched : s.schedule = .event e :: rest) :
    step s = .next ((s.beginTurn rest s.quantum).event e) := by
  rw [step_of_faultless h, turn, hsched]

/-- In some turn the CPU steps. -/
theorem step_of_cpuIsNext (h : s.Faultless) (hnext : s.CpuIsNext) :
    ∃ n rest, step s = cpuTurn (s.beginTurn rest n) := by
  obtain hsched | ⟨n, rest, hsched⟩ := hnext
  · exact ⟨_, _, step_cpuTurn h (.inr ⟨hsched, rfl, rfl⟩)⟩
  · exact ⟨n, rest, step_cpuTurn h (.inl hsched)⟩

theorem cpuTurn_of_foreground (h : s.ctx = .foreground) : cpuTurn s = foregroundTurn s := by
  rw [cpuTurn, h]

theorem cpuTurn_of_interrupt (h : s.ctx = .interrupt) : cpuTurn s = exec .handleInterrupt s := by
  rw [cpuTurn, h]

theorem cpuTurn_of_handler (h : s.ctx = .handler) : cpuTurn s = handlerTurn s := by
  rw [cpuTurn, h]

theorem cpuTurn_foreground_inOp {i : Instr} {k : Nat} {tmp : Tmp} (h : s.ctx = .foreground)
    (hs : s.seqFg = .inOp i k tmp) : cpuTurn s = exec i s := by
  rw [cpuTurn_of_foreground h, foregroundTurn, hs]

theorem cpuTurn_foreground_dispatch {d : Dispatch} (h : s.ctx = .foreground)
    (hs : s.seqFg = .dispatch d) : cpuTurn s = exec .handleInterrupt s := by
  rw [cpuTurn_of_foreground h, foregroundTurn, hs]

theorem cpuTurn_foreground_idle {w : CmdWord} {ws : List CmdWord} (h : s.ctx = .foreground)
    (hs : s.seqFg = .idle) (hp : s.port = w :: ws) :
    cpuTurn s = present w { s with port := ws } := by
  rw [cpuTurn_of_foreground h, foregroundTurn, hs, hp]

theorem cpuTurn_handler_inOp {i : Instr} {k : Nat} {tmp : Tmp} (h : s.ctx = .handler)
    (hs : s.seqHandler = .inOp i k tmp) : cpuTurn s = exec i s := by
  rw [cpuTurn_of_handler h, handlerTurn, hs]

theorem cpuTurn_handler_none (h : s.ctx = .handler) (hs : s.seqHandler = .idle)
    (hw : s.nextHandlerWord = none) : cpuTurn s = .next s.handlerReturn := by
  rw [cpuTurn_of_handler h, handlerTurn, hs, hw]

theorem cpuTurn_handler_some {w : CmdWord} {ws : List CmdWord} (h : s.ctx = .handler)
    (hs : s.seqHandler = .idle) (hw : s.nextHandlerWord = some (w, ws)) :
    cpuTurn s = present w { s with handlerWords := ws } := by
  rw [cpuTurn_of_handler h, handlerTurn, hs, hw]

theorem nextHandlerWord_eq_some {w : CmdWord} {ws : List CmdWord}
    (h : s.handlerWords = w :: ws ∨ (s.handlerWords = [] ∧ s.handlerEnd = .again (w :: ws))) :
    s.nextHandlerWord = some (w, ws) := by
  unfold State.nextHandlerWord
  obtain h | ⟨h, he⟩ := h
  · rw [h]
  · rw [h, he]

theorem present_of_ok {w : CmdWord} {i : Instr} (h : decode w = .ok i) : present w s = exec i s := by
  rw [present, h]

theorem present_of_error {w : CmdWord} {e : DecodeError} (h : decode w = .error e) :
    present w s = .next (s.raise .illegalCommand) := by
  rw [present, h]

end Forwards

/-! ### A step backwards -/

/-- What a CPU turn of `s` that answers `t` has done. -/
inductive CpuTurn (s t : State) : Prop where
  /-- The foreground has no command. -/
  | nothing (h : s.ctx = .foreground) (ht : t = s)
  /-- The running sequencer goes on with its operation. -/
  | resumes (i : Instr) (k : Nat) (tmp : Tmp) (h : s.ctx ≠ .interrupt) (hs : s.seq = .inOp i k tmp)
      (ht : exec i s = .next t)
  /-- The dispatcher goes on. -/
  | dispatches (h : s.seq.inDispatch = true) (ht : exec .handleInterrupt s = .next t)
  /-- The foreground takes a command. -/
  | accepts (w : CmdWord) (ws : List CmdWord) (h : s.ctx = .foreground) (hs : s.seqFg = .idle)
      (ht : present w { s with port := ws } = .next t)
  /-- The handler takes its next command. -/
  | issues (w : CmdWord) (ws : List CmdWord) (h : s.ctx = .handler) (hs : s.seqHandler = .idle)
      (ht : present w { s with handlerWords := ws } = .next t)
  /-- The handler has no command left. -/
  | returns (h : s.ctx = .handler) (hs : s.seqHandler = .idle) (ht : t = s.handlerReturn)

theorem foregroundTurn_cases {s t : State} (h : s.ctx = .foreground)
    (ht : foregroundTurn s = .next t) : CpuTurn s t := by
  have hseq := State.seq_of_foreground h
  unfold foregroundTurn at ht
  split at ht
  · next hs => exact .resumes _ _ _ (by rw [h]; decide) (hseq.trans hs) ht
  · next hs => exact .dispatches (by rw [hseq, hs]; rfl) ht
  · next hs =>
    split at ht
    · exact .nothing h (Host.Outcome.next.inj ht).symm
    · exact .accepts _ _ h hs ht

theorem handlerTurn_cases {s t : State} (h : s.ctx = .handler) (ht : handlerTurn s = .next t) :
    CpuTurn s t := by
  have hseq := State.seq_of_handler h
  unfold handlerTurn at ht
  split at ht
  · next hs => exact .resumes _ _ _ (by rw [h]; decide) (hseq.trans hs) ht
  · next hs => exact .dispatches (by rw [hseq, hs]; rfl) ht
  · next hs =>
    split at ht
    · exact .returns h hs (Host.Outcome.next.inj ht).symm
    · exact .issues _ _ h hs ht

theorem inDispatch_of_interrupt {s : State} (h : s.ctx = .interrupt) : s.seq.inDispatch = true := by
  obtain ⟨hc, _⟩ | ⟨_, d, hd, _⟩ | ⟨hc, _⟩ := s.ctx_cases
  · rw [h] at hc; cases hc
  · simp [State.seq, h, hd, Seq.inDispatch]
  · rw [h] at hc; cases hc

theorem cpuTurn_cases {s t : State} (ht : cpuTurn s = .next t) : CpuTurn s t := by
  cases h : s.ctx with
  | foreground => exact foregroundTurn_cases h (cpuTurn_of_foreground h ▸ ht)
  | interrupt => exact .dispatches (inDispatch_of_interrupt h) (cpuTurn_of_interrupt h ▸ ht)
  | handler => exact handlerTurn_cases h (cpuTurn_of_handler h ▸ ht)

/-- What a step of `s` that answers `t` has done: no fault was recorded, and the turn was the CPU's or an
event's. -/
theorem step_cases {s t : State} (h : step s = .next t) :
    s.Faultless ∧ ∃ rest n, CpuTurn (s.beginTurn rest n) t ∨
      ∃ e, s.schedule = .event e :: rest ∧ t = (s.beginTurn rest n).event e := by
  unfold step at h
  split at h
  · cases h
  · next hf =>
    refine ⟨hf, ?_⟩
    unfold turn at h
    split at h
    · exact ⟨_, _, .inl (cpuTurn_cases h)⟩
    · exact ⟨_, _, .inl (cpuTurn_cases h)⟩
    · next hsched => exact ⟨_, _, .inr ⟨_, hsched, (Host.Outcome.next.inj h).symm⟩⟩

/-- A word presented is run, or refused with a fault. -/
theorem present_cases {w : CmdWord} {s t : State} (h : present w s = .next t) :
    (∃ i, decode w = .ok i ∧ exec i s = .next t) ∨ t = s.raise .illegalCommand := by
  unfold present at h
  split at h
  · exact .inl ⟨_, ‹_›, h⟩
  · exact .inr (Host.Outcome.next.inj h).symm

/-! ### The statements -/

/-- Settles O5: the foreground's turn presents the word, which decodes. -/
theorem stepRunsTheDecodedCommand : Obligations.StepRunsTheDecodedCommand := by
  intro s w ws i hf hctx hidle hport hdec
  have hturn (rest : List Turn) (n : Nat) :
      cpuTurn (s.beginTurn rest n) = exec i { s.beginTurn rest n with port := ws } :=
    (cpuTurn_foreground_idle (s := s.beginTurn rest n) hctx hidle hport).trans (present_of_ok hdec)
  refine ⟨fun hsched => ?_, fun n rest hsched => ?_⟩
  · rw [step_cpuTurn hf (.inr ⟨hsched, rfl, rfl⟩), hturn, State.beginTurn, ← hsched]
  · rw [step_cpuTurn hf (.inl hsched), hturn, State.beginTurn]

/-- Settles O6, by the place of the running sequencer. -/
theorem stepResumesTheOperationInProgress : Obligations.StepResumesTheOperationInProgress := by
  intro s n rest hf hsched
  rw [step_cpuTurn hf hsched]
  refine ⟨fun i k t hctx hs => cpuTurn_foreground_inOp (s := s.beginTurn rest n) hctx hs,
    fun d hctx hs => cpuTurn_foreground_dispatch (s := s.beginTurn rest n) hctx hs,
    fun hctx => cpuTurn_of_interrupt hctx,
    fun i k t hctx hs => cpuTurn_handler_inOp (s := s.beginTurn rest n) hctx hs,
    fun i w ws hctx hs hw hdec => ?_, fun d hctx hs hw hd => ?_⟩
  · exact (cpuTurn_handler_some (s := s.beginTurn rest n) hctx hs (nextHandlerWord_eq_some hw)).trans
      (present_of_ok hdec)
  · have hnone (he : s.handlerEnd = .returns ∨ s.handlerEnd = .again []) :
        cpuTurn (s.beginTurn rest n) = .next (s.beginTurn rest n).handlerReturn :=
      cpuTurn_handler_none hctx hs ((nextHandlerWord_none_iff _).2 ⟨hw, he⟩)
    refine ⟨fun he => ?_, fun he => ?_⟩
    · rw [hnone (.inl he)]
      exact congrArg _ (State.handlerReturn_of_handler (s := s.beginTurn rest n) hctx hw he hd)
    · rw [hnone (.inr he)]
      exact congrArg _ (State.handlerReturn_of_stays (s := s.beginTurn rest n)
        (.inr (by rw [State.beginTurn_handlerEnd, he]; nofun)))

/-- Settles O7: `step` looks at the fault log first. -/
theorem recordedFaultEndsTheRun : Obligations.RecordedFaultEndsTheRun := by
  intro s f fs h
  rw [step, h]

/-- Settles O8, by evaluation at the reset state. -/
theorem resetGivesTheTablesValues : Obligations.ResetGivesTheTablesValues := by
  unfold Obligations.ResetGivesTheTablesValues
  decide

/-- Settles O9: at reset every divider is `(1, 0)` and every sequencer is idle. -/
theorem resetMeetsTheInvariants : Obligations.ResetMeetsTheInvariants :=
  ⟨⟨fun c => by rw [State.chan_reset]; decide, rfl, rfl⟩,
    nofun, rfl, rfl, rfl, fun _ => ⟨rfl, rfl, rfl⟩, nofun⟩

/-! ### Refused words -/

/-- The reserved ranges of the opcode map are what its rows leave over. -/
theorem decodeFields_reserved {op tgt pl : Nat}
    (h : op = 0x00 ∨ (0x03 ≤ op ∧ op ≤ 0x0F) ∨ (0x19 ≤ op ∧ op ≤ 0x1F) ∨ (0x22 ≤ op ∧ op ≤ 0x2F) ∨
      (0x37 ≤ op ∧ op ≤ 0x3F) ∨ (0x48 ≤ op ∧ op ≤ 0x4F) ∨ 0x51 ≤ op) :
    decodeFields op tgt pl = .error .reservedOpcode := by
  unfold decodeFields
  split
  case h_30 => rfl
  all_goals omega

/-- A fault leaves idle the sequencer that accepts commands, and everything but the log as it was. -/
theorem raise_of_accepts {s : State} (h : s.Accepts) (f : Fault) :
    s.raise f = { s with faultLog := s.faultLog ++ [f] } := by
  obtain ⟨hctx, hseq⟩ := h
  cases hc : s.ctx with
  | foreground =>
    rw [State.raise, State.setSeq_of_foreground (s := { s with faultLog := s.faultLog ++ [f] }) hc]
    rw [State.seq_of_foreground hc] at hseq
    rw [← hseq]
  | interrupt => exact absurd hc hctx
  | handler =>
    rw [State.raise, State.setSeq_of_handler (s := { s with faultLog := s.faultLog ++ [f] }) hc]
    rw [State.seq_of_handler hc] at hseq
    rw [← hseq]

/-- Settles O4: the decoder refuses what encodes nothing, because a word that decodes is an encoding; and
the refusal records the fault and does nothing else. -/
theorem illegalWordsRaiseIllegalCommand : Obligations.IllegalWordsRaiseIllegalCommand := by
  refine ⟨fun w hw => ?_, fun w hop => decodeFields_reserved hop, fun w e s he hs => ?_,
    fun w ws e s he hf hnext => ?_⟩
  · cases h : decode w with
    | error e => exact ⟨e, rfl⟩
    | ok i =>
      obtain ⟨henc, hwf⟩ := encodeOfDecodeIsIdentity w i h
      exact absurd henc (hw i hwf)
  · refine ⟨_, present_of_error he, ?_⟩
    rw [raise_of_accepts hs]
    exact ⟨rfl, rfl, ⟨fun _ => rfl, rfl, rfl, rfl⟩, rfl, rfl, hs.2⟩
  · obtain ⟨n, rest, hstep⟩ := step_of_cpuIsNext hf hnext
    have hlog : s.faultLog ++ [Fault.illegalCommand] = [.illegalCommand] := by rw [hf]; rfl
    refine ⟨fun hctx hidle hport => ?_, fun hctx hidle hw => ?_⟩
    · have haccepts : ({ s.beginTurn rest n with port := ws } : State).Accepts :=
        ⟨by show s.ctx ≠ _; rw [hctx]; decide, (State.seq_of_foreground hctx).trans hidle⟩
      have hturn := cpuTurn_foreground_idle (s := s.beginTurn rest n) hctx hidle hport
      rw [present_of_error he, raise_of_accepts haccepts] at hturn
      exact ⟨_, hstep.trans hturn, hlog, rfl, ⟨fun _ => rfl, rfl, rfl, rfl⟩, rfl, rfl, hidle, rfl⟩
    · have haccepts : ({ s.beginTurn rest n with handlerWords := ws } : State).Accepts :=
        ⟨by show s.ctx ≠ _; rw [hctx]; decide, (State.seq_of_handler hctx).trans hidle⟩
      have hturn := cpuTurn_handler_some (s := s.beginTurn rest n) hctx hidle
        (nextHandlerWord_eq_some hw)
      rw [present_of_error he, raise_of_accepts haccepts] at hturn
      exact ⟨_, hstep.trans hturn, hlog, rfl, ⟨fun _ => rfl, rfl, rfl, rfl⟩, rfl, rfl, hidle, rfl, rfl⟩

end Sys2Proof.Machine
end

section
/-! PROOFS. How a turn of `handle_interrupt` ends (44_interrupt_ops.md R178). As `exec_ends` does for an
operation, one induction over the micro-steps of the dispatcher says what the turn has changed and where it
stops. The frames and the invariants cite it. -/

namespace Sys2Proof.Machine

open Sys2Proof

/-! ### The dispatch in progress and the running sequencer -/

section Ctx

variable {s : State} {d : Dispatch}

theorem ctx_eq_handler_iff :
    s.ctx = .handler ↔ ∃ d, s.currentDispatch = some d ∧ d.phase = .handler := by
  unfold State.ctx State.currentDispatch
  cases hi : s.seqIrq with
  | dispatch d => by_cases hp : d.phase = .handler <;> simp [hp]
  | idle =>
    cases hf : s.seqFg with
    | idle => simp
    | inOp i k t => simp
    | dispatch d => by_cases hp : d.phase = .handler <;> simp [hp]

theorem phase_ne_handler (h : s.ctx ≠ .handler) (hd : s.currentDispatch = some d) :
    d.phase ≠ .handler :=
  fun hp => h (ctx_eq_handler_iff.2 ⟨d, hd, hp⟩)

theorem ctx_setDispatch_eq_handler_iff :
    (s.setDispatch d).ctx = .handler ↔ d.phase = .handler := by
  rw [ctx_eq_handler_iff, State.currentDispatch_setDispatch]
  exact ⟨fun ⟨_, he, hp⟩ => by cases he; exact hp, fun hp => ⟨d, rfl, hp⟩⟩

end Ctx

/-! ### What the micro-steps of a turn change -/

/-- `u` is `s` but for the latches, the forced bits, the log of calls and the script; no latch was set and
no call was taken out of the log. -/
structure Serves (s u : State) : Prop where
  eq    : u = { s with
    intr := u.intr, intf := u.intf, firedLog := u.firedLog, handlerScript := u.handlerScript }
  fired : s.firedLog <+: u.firedLog
  latch : ∀ c : ChannelId, u.intr.getLsbD c.val = true → s.intr.getLsbD c.val = true

namespace Serves

variable {s u v : State}

theorem refl (s : State) : Serves s s := ⟨rfl, List.prefix_rfl, fun _ => id⟩

theorem trans (h : Serves s u) (h' : Serves u v) : Serves s v :=
  ⟨by rw [h'.eq, h.eq], h.fired.trans h'.fired, fun c hc => h.latch c (h'.latch c hc)⟩

theorem recordCall (s : State) (x : Handle) (c : ChannelId) : Serves s (s.recordCall x c) :=
  ⟨rfl, List.prefix_append _ _, fun _ => id⟩

theorem clearRaw (s : State) (v : Word) : Serves s (s.regWrite .intr v) :=
  ⟨rfl, List.prefix_rfl, fun _ hc => by
    simp only [State.regWrite, BitVec.getLsbD_and, Bool.and_eq_true] at hc; exact hc.1⟩

theorem unforce (s : State) (v : Word) : Serves s (s.regWrite .intf v) :=
  ⟨rfl, List.prefix_rfl, fun _ => id⟩

theorem chans (h : Serves s u) : u.chans = s.chans := by rw [h.eq]
theorem inte (h : Serves s u) : u.inte = s.inte := by rw [h.eq]
theorem handler (h : Serves s u) : u.handler = s.handler := by rw [h.eq]
theorem seqFg (h : Serves s u) : u.seqFg = s.seqFg := by rw [h.eq]
theorem seqIrq (h : Serves s u) : u.seqIrq = s.seqIrq := by rw [h.eq]
theorem seqHandler (h : Serves s u) : u.seqHandler = s.seqHandler := by rw [h.eq]
theorem handlerWords (h : Serves s u) : u.handlerWords = s.handlerWords := by rw [h.eq]
theorem handlerEnd (h : Serves s u) : u.handlerEnd = s.handlerEnd := by rw [h.eq]
theorem port (h : Serves s u) : u.port = s.port := by rw [h.eq]
theorem faultLog (h : Serves s u) : u.faultLog = s.faultLog := by rw [h.eq]
theorem ctx (h : Serves s u) : u.ctx = s.ctx := State.ctx_congr h.seqFg h.seqIrq

end Serves

/-- The ways a turn of the dispatcher that begins at `d₀` ends, with `u` the state before its end:
suspended, left to the handler that was called, or with the response. -/
inductive DispatchEnds (d₀ : Dispatch) (u : State) : State → Prop where
  | suspended (d : Dispatch) (hl : d₀.legal = true → d.legal = true) (hp : d.phase ≠ .handler) :
      DispatchEnds d₀ u (u.setDispatch d)
  | called (d : Dispatch) (hl : d₀.legal = true → d.legal = true) (hp : d.phase = .handler)
      (words : List CmdWord) (ending : HandlerEnd) :
      DispatchEnds d₀ u
        (({ u with handlerWords := words, handlerEnd := ending } : State).setDispatch d)
  | responded : DispatchEnds d₀ u (u.respond (.ok 0))

theorem dispatch_from_phase (d : Dispatch) (k : Nat) : (d.from k).phase ≠ .handler := by
  unfold Dispatch.from
  split <;> nofun

/-- Between steps 2a and 2d the channel of the dispatch stays the same, and so its legality. -/
theorem legal_sameChannel {d : Dispatch} (p : DispatchPhase) (w : Word)
    (h : d.phase ≠ .readStatus) (h' : d.phase ≠ .respond) (hd : d.legal = true) :
    ({ d with phase := p, tmp := w } : Dispatch).legal = true := by
  have hbit : d.snapshot.getLsbD d.chan.val = true := by
    unfold Dispatch.legal at hd
    split at hd <;> first | exact hd | exact absurd ‹_› h | exact absurd ‹_› h'
  unfold Dispatch.legal
  split <;> first | exact hbit | rfl

/-- A turn of the dispatcher that begins outside the handler phase. -/
theorem runMicros_dispatch_ends {d₀ : Dispatch} (h₀ : d₀.phase ≠ .handler) (n : Nat) (s : State) :
    ∃ u, Serves s u ∧ DispatchEnds d₀ u (runMicros suspendDispatch dispatchBody n d₀ s) := by
  refine runMicros_induct
    (I := fun d u => Serves s u ∧ (d₀.legal = true → d.legal = true) ∧ d.phase ≠ .handler)
    (Q := fun t => ∃ u, Serves s u ∧ DispatchEnds d₀ u t) ?_ ?_ ?_ ?_ n d₀ s
    ⟨.refl s, id, h₀⟩
  · rintro d u q v ⟨hu, hl, hp⟩ hb
    have hc := dispatchBody_cases d u
    rw [hb] at hc
    cases hc with
    | readStatus h => exact ⟨hu, fun _ => Dispatch.from_legal _ _, dispatch_from_phase _ _⟩
    | unheard h hn =>
      exact ⟨hu, fun h₁ => legal_sameChannel _ _ (by rw [h]; nofun) (by rw [h]; nofun) (hl h₁), nofun⟩
    | heard h x hx hs =>
      exact ⟨hu.trans (.recordCall _ _ _),
        fun h₁ => legal_sameChannel _ _ (by rw [h]; nofun) (by rw [h]; nofun) (hl h₁), nofun⟩
    | clearRaw h =>
      exact ⟨hu.trans (.clearRaw _ _),
        fun h₁ => legal_sameChannel _ _ (by rw [h]; nofun) (by rw [h]; nofun) (hl h₁), nofun⟩
    | unforceRead h =>
      exact ⟨hu, fun h₁ => legal_sameChannel _ _ (by rw [h]; nofun) (by rw [h]; nofun) (hl h₁), nofun⟩
    | unforceWrite h =>
      exact ⟨hu.trans (.unforce _ _), fun _ => Dispatch.from_legal _ _, dispatch_from_phase _ _⟩
  · rintro d u q v ⟨hu, hl, hp⟩ hb
    have hc := dispatchBody_cases d u
    rw [hb] at hc
    cases hc with
    | called h x hx hs =>
      exact ⟨u.recordCall x d.chan, hu.trans (.recordCall _ _ _), .called _
        (fun h₁ => legal_sameChannel _ _ (by rw [h]; nofun) (by rw [h]; nofun) (hl h₁)) rfl _ _⟩
    | wait h => exact absurd h hp
  · rintro d u t ⟨hu, -, -⟩ hb
    have hc := dispatchBody_cases d u
    rw [hb] at hc
    cases hc with
    | respond h => exact ⟨u, hu, .responded⟩
  · rintro d u ⟨hu, hl, hp⟩
    exact ⟨u, hu, .suspended d hl hp⟩

/-- What a turn of `handle_interrupt` does: a handler's is a fault; a sequencer busy with another operation
does not accept it; the foreground's accepting turn enters a dispatch; and else the dispatcher runs. -/
inductive HandleInterruptEnds (s : State) : State → Prop where
  | raised (h : s.ctx = .handler) : HandleInterruptEnds s (s.raise .reentrancy)
  | ignored : HandleInterruptEnds s s
  | entered (h : s.ctx = .foreground) (hs : s.seqFg = .idle) :
      HandleInterruptEnds s { s with seqFg := .dispatch Dispatch.start }
  | ran {u t : State} (d₀ : Dispatch) (h : s.ctx ≠ .handler)
      (hd : s.currentDispatch = some d₀ ∨ d₀ = Dispatch.start)
      (hu : Serves s u) (ht : DispatchEnds d₀ u t) : HandleInterruptEnds s t

theorem runDispatch_ends {s : State} (h : s.ctx ≠ .handler) :
    HandleInterruptEnds s (runDispatch s) := by
  unfold runDispatch
  split
  · next d hd =>
    obtain ⟨u, hu, ht⟩ := runMicros_dispatch_ends (phase_ne_handler h hd) s.quantum s
    exact .ran d h (.inl hd) hu ht
  · exact .ignored

theorem enterDispatch_ends {s : State} (h : s.ctx = .foreground) (hs : s.seqFg = .idle) :
    HandleInterruptEnds s (enterDispatch s) := by
  unfold enterDispatch
  split
  · exact .entered h hs
  · next n _ =>
    obtain ⟨u, hu, ht⟩ := runMicros_dispatch_ends (d₀ := Dispatch.start) nofun n s
    exact .ran _ (by rw [h]; nofun) (.inr rfl) hu ht

theorem handleInterruptTurn_ends (s : State) : HandleInterruptEnds s (handleInterruptTurn s) := by
  unfold handleInterruptTurn
  split
  · exact .raised ‹_›
  · exact .ignored
  · next h hs => exact enterDispatch_ends h ((State.seq_of_foreground h).symm.trans hs)
  · exact .ignored
  · next h _ => exact runDispatch_ends (by rw [h]; nofun)
  · next h => exact runDispatch_ends (by rw [h]; nofun)

theorem exec_handleInterrupt_ends {s t : State} (h : exec .handleInterrupt s = .next t) :
    HandleInterruptEnds s t := by
  rw [exec_eq, Host.Outcome.next.injEq] at h
  exact h ▸ handleInterruptTurn_ends s

/-- The end of a turn of the dispatcher touches no register, no handler slot and no log of calls. -/
theorem DispatchEnds.keeps {d₀ : Dispatch} {u t : State} (h : DispatchEnds d₀ u t) :
    t.chans = u.chans ∧ t.intr = u.intr ∧ t.inte = u.inte ∧ t.intf = u.intf ∧
      t.handler = u.handler ∧ t.firedLog = u.firedLog ∧ t.faultLog = u.faultLog := by
  cases h <;> simp

/-! ### The invariants that no operation and no dispatch breaks -/

/-- `handle_interrupt` keeps the slot, extends the log of calls, and sets no latch. -/
theorem HandleInterruptEnds.keeps {s t : State} (h : HandleInterruptEnds s t) :
    t.handler = s.handler ∧ s.firedLog <+: t.firedLog ∧
      ∀ c : ChannelId, t.intr.getLsbD c.val = true → s.intr.getLsbD c.val = true := by
  cases h with
  | raised => simp
  | ignored => exact ⟨rfl, List.prefix_rfl, fun _ => id⟩
  | entered => exact ⟨rfl, List.prefix_rfl, fun _ => id⟩
  | ran d₀ _ _ hu ht =>
    obtain ⟨-, hintr, -, -, hhandler, hfired, -⟩ := ht.keeps
    exact ⟨hhandler.trans hu.handler, hfired ▸ hu.fired, hintr ▸ hu.latch⟩

/-- A register write clears latches and never sets one (20_memory.md R45). -/
theorem regWrite_intr_getLsbD {s : State} {r : Reg} {v : Word} {k : Nat}
    (h : (s.regWrite r v).intr.getLsbD k = true) : s.intr.getLsbD k = true := by
  cases r <;> first | exact h | skip
  rw [State.regWrite, BitVec.getLsbD_and, Bool.and_eq_true] at h
  exact h.1

/-- No operation empties the handler slot, takes a call out of the log, or sets a latch. -/
theorem exec_keeps {i : Instr} {s t : State} (h : exec i s = .next t) :
    (s.handler ≠ none → t.handler ≠ none) ∧ s.firedLog <+: t.firedLog ∧
      ∀ c : ChannelId, t.intr.getLsbD c.val = true → s.intr.getLsbD c.val = true := by
  by_cases hi : i = .handleInterrupt
  · subst hi
    obtain ⟨hhandler, hfired, hlatch⟩ := (exec_handleInterrupt_ends h).keeps
    exact ⟨by rw [hhandler]; exact id, hfired, hlatch⟩
  · have hends := exec_ends h hi
      (R := fun u => (s.handler ≠ none → u.handler ≠ none) ∧
        ∀ c : ChannelId, u.intr.getLsbD c.val = true → s.intr.getLsbD c.val = true)
      ⟨id, fun _ => id⟩
      (fun u r v _ hu => ⟨by rw [State.regWrite_handler]; exact hu.1,
        fun c hc => hu.2 c (regWrite_intr_getLsbD hc)⟩)
      (fun u x _ hu => ⟨fun _ => nofun, hu.2⟩)
    obtain rfl | ⟨u, hsame, ⟨hslot, hlatch⟩, hend⟩ := hends
    · exact ⟨id, List.prefix_rfl, fun _ => id⟩
    · obtain ⟨⟨-, hintr, -, -⟩, hhandler, -, -, -, -, -, -, -, -, hfired⟩ := hend.keeps
      exact ⟨by rw [hhandler]; exact hslot, by rw [hfired, hsame.firedLog], by rw [hintr]; exact hlatch⟩

/-- Settles O13. -/
theorem noOperationSetsARawInterrupt : Obligations.NoOperationSetsARawInterrupt :=
  fun _ _ _ c h => (exec_keeps h).2.2 c

/-! ### The same of a step -/

/-- An event is of a channel, `TakeIrq`, or a change of the clock. -/
theorem event_cases (e : Event) : (∃ c, e.IsOf c) ∨ e = .takeIrq ∨ ∃ hz, e = .clock hz := by
  cases e with
  | tick c => exact .inl ⟨c, .inl rfl⟩
  | advAck c => exact .inl ⟨c, .inr (.inl rfl)⟩
  | retAck c => exact .inl ⟨c, .inr (.inr (.inl rfl))⟩
  | pinB c level counts => exact .inl ⟨c, .inr (.inr (.inr ⟨level, counts, rfl⟩))⟩
  | takeIrq => exact .inr (.inl rfl)
  | clock hz => exact .inr (.inr ⟨hz, rfl⟩)

/-- Apart from the registers, the fault log, the clock and the entry to a dispatch, an event leaves the
state as it was. -/
theorem event_eq (s : State) (e : Event) :
    ∃ chans intr faults hz irq, s.event e =
      { s with chans := chans, intr := intr, faultLog := faults, sysClkHz := hz, seqIrq := irq } := by
  obtain ⟨c, hc⟩ | rfl | ⟨hz, rfl⟩ := event_cases e
  · obtain ⟨_, _, _, h⟩ := (writesChannel_event hc s).rest
    exact ⟨_, _, _, s.sysClkHz, s.seqIrq, h⟩
  · show ∃ chans intr faults hz irq, (if s.takeIrqEnabled then s.takeIrq else s) = _
    split
    · exact ⟨_, _, _, _, _, rfl⟩
    · exact ⟨_, _, _, _, s.seqIrq, rfl⟩
  · exact ⟨s.chans, s.intr, s.faultLog, hz, s.seqIrq, rfl⟩

theorem present_keeps {w : CmdWord} {s t : State} (h : present w s = .next t) :
    (s.handler ≠ none → t.handler ≠ none) ∧ s.firedLog <+: t.firedLog := by
  obtain ⟨i, -, h⟩ | rfl := present_cases h
  · exact ⟨(exec_keeps h).1, (exec_keeps h).2.1⟩
  · simp

theorem CpuTurn.keeps {s t : State} (h : CpuTurn s t) :
    (s.handler ≠ none → t.handler ≠ none) ∧ s.firedLog <+: t.firedLog := by
  cases h with
  | nothing _ ht => subst ht; exact ⟨id, List.prefix_rfl⟩
  | resumes _ _ _ _ _ ht => exact ⟨(exec_keeps ht).1, (exec_keeps ht).2.1⟩
  | dispatches _ ht => exact ⟨(exec_keeps ht).1, (exec_keeps ht).2.1⟩
  | accepts _ _ _ _ ht => exact (present_keeps ht :)
  | issues _ _ _ _ ht => exact (present_keeps ht :)
  | returns _ _ ht => subst ht; simp

theorem step_keeps {s t : State} (h : step s = .next t) :
    (s.handler ≠ none → t.handler ≠ none) ∧ s.firedLog <+: t.firedLog := by
  obtain ⟨-, rest, n, hcpu | ⟨e, -, rfl⟩⟩ := step_cases h
  · exact hcpu.keeps
  · obtain ⟨_, _, _, _, _, he⟩ := event_eq (s.beginTurn rest n) e
    rw [he]
    exact ⟨id, List.prefix_rfl⟩

/-- Settles O12. -/
theorem handlerSlotNeverEmptiesAgain : Obligations.HandlerSlotNeverEmptiesAgain :=
  fun _ _ h => (step_keeps h).1

/-- Settles O15: the log of calls by `step_keeps`; that of faults was empty, or the step had not answered. -/
theorem logsOnlyGrow : Obligations.LogsOnlyGrow := by
  intro s t h
  have hf : s.faultLog = [] := (step_cases h).1
  exact ⟨(step_keeps h).2, hf ▸ List.nil_prefix⟩

end Sys2Proof.Machine
end

section
/-! PROOFS. Where the sequencers are (10_state.md R22, R23, 44_interrupt_ops.md R178). The invariant is a
function of the three sequencers and of what the handler has still to do. It is kept by each of the few
moves a turn makes on them: an operation suspended, a sequencer put to idle, the handler's return, and the
dispatch put at another place. -/

namespace Sys2Proof.Machine

open Sys2Proof

/-! ### The moves on the sequencers -/

section Moves

variable {s t u : State}

theorem State.SequencersLegal.congr (h : s.SequencersLegal) (hf : t.seqFg = s.seqFg)
    (hi : t.seqIrq = s.seqIrq) (hh : t.seqHandler = s.seqHandler)
    (hw : t.handlerWords = s.handlerWords) (he : t.handlerEnd = s.handlerEnd) :
    t.SequencersLegal := by
  unfold State.SequencersLegal at *
  rw [State.ctx_congr hf hi, State.currentDispatch_congr hf hi, hf, hi, hh, hw, he]
  exact h

theorem SameButBank.sequencersLegal (h : SameButBank s u) (hs : s.SequencersLegal) :
    u.SequencersLegal :=
  hs.congr h.seqFg h.seqIrq h.seqHandler h.handlerWords h.handlerEnd

theorem Serves.sequencersLegal (h : Serves s u) (hs : s.SequencersLegal) : u.SequencersLegal :=
  hs.congr h.seqFg h.seqIrq h.seqHandler h.handlerWords h.handlerEnd

theorem currentDispatch_of_inDispatch_false (hi : s.seqIrq = .idle)
    (hf : s.seqFg.inDispatch = false) : s.currentDispatch = none := by
  unfold State.currentDispatch
  rw [hi]
  cases hq : s.seqFg <;> simp_all [Seq.inDispatch]

/-- A sequencer put at a place that is no dispatch: of the foreground's, the handler's and the interrupt
context's, the one that runs. -/
theorem sequencersLegal_setSeq (hs : s.SequencersLegal) {q : Seq} (hq : q.inDispatch = false)
    (ho : q.ordinary = true) : (s.setSeq q).SequencersLegal := by
  obtain ⟨hone, hhandler, hfg, hord, hquiet, hlegal⟩ := hs
  obtain ⟨hc, hi, -⟩ | ⟨hc, d, hi, -⟩ | ⟨hc, -⟩ := s.ctx_cases
  · rw [State.setSeq_of_foreground hc]
    refine ⟨fun h => absurd hi h, hhandler, ho, hord, fun _ => hquiet (by rw [hc]; nofun), fun d hd => ?_⟩
    rw [currentDispatch_of_inDispatch_false (s := { s with seqFg := q }) hi hq] at hd
    cases hd
  · have hseq : s.setSeq q = { s with seqIrq := .idle } := by
      unfold State.setSeq
      rw [hc]
      cases q <;> first | rfl | cases hq
    rw [hseq]
    refine ⟨nofun, hhandler, hfg, hord, fun _ => hquiet (by rw [hc]; nofun), fun d hd => ?_⟩
    rw [currentDispatch_of_inDispatch_false (s := { s with seqIrq := .idle }) rfl
      (hone (by rw [hi]; nofun))] at hd
    cases hd
  · rw [State.setSeq_of_handler hc]
    exact ⟨hone, hq, hfg, ho, fun h => absurd hc h, hlegal⟩

/-- The dispatch in progress, or the foreground's own, put at another place. Outside the handler phase the
handler has to be at rest. -/
theorem sequencersLegal_setDispatch {d : Dispatch} (hone : s.seqIrq ≠ .idle → s.seqFg.inDispatch = false)
    (hhandler : s.seqHandler.inDispatch = false) (hfg : s.seqFg.ordinary = true)
    (hord : s.seqHandler.ordinary = true) (hd : d.legal = true)
    (hquiet : d.phase ≠ .handler →
      s.seqHandler = .idle ∧ s.handlerWords = [] ∧ s.handlerEnd = .returns) :
    (s.setDispatch d).SequencersLegal := by
  have hfields : ((s.setDispatch d).seqIrq ≠ .idle → (s.setDispatch d).seqFg.inDispatch = false) ∧
      (s.setDispatch d).seqFg.ordinary = true := by
    unfold State.setDispatch
    split
    · next hi => exact ⟨fun _ => hone (by rw [hi]; nofun), hfg⟩
    · next hi => exact ⟨fun h => absurd hi h, rfl⟩
  refine ⟨hfields.1, by rwa [State.setDispatch_seqHandler], hfields.2,
    by rwa [State.setDispatch_seqHandler], fun h => ?_, fun e he => ?_⟩
  · rw [State.setDispatch_seqHandler, State.setDispatch_handlerWords, State.setDispatch_handlerEnd]
    exact hquiet fun hp => h (ctx_setDispatch_eq_handler_iff.2 hp)
  · rw [State.currentDispatch_setDispatch] at he
    cases he
    exact hd

/-- The handler's return, from its idle sequencer. -/
theorem sequencersLegal_handlerReturn (hs : s.SequencersLegal) (hidle : s.ctx = .handler → s.seqHandler = .idle) :
    s.handlerReturn.SequencersLegal := by
  unfold State.handlerReturn
  split
  · next d hc hw he hd =>
    obtain ⟨hone, hhandler, hfg, hord, -, hlegal⟩ := hs
    have hp : d.phase = .handler := by
      obtain ⟨e, he, hp⟩ := ctx_eq_handler_iff.1 hc
      rw [hd] at he
      cases he
      exact hp
    exact sequencersLegal_setDispatch hone hhandler hfg hord
      (legal_sameChannel _ _ (by rw [hp]; nofun) (by rw [hp]; nofun) (hlegal d hd))
      fun _ => ⟨hidle hc, hw, he⟩
  · exact hs

theorem sequencersLegal_raise (hs : s.SequencersLegal) (f : Fault) : (s.raise f).SequencersLegal :=
  sequencersLegal_setSeq (s := { s with faultLog := s.faultLog ++ [f] }) hs rfl rfl

/-- Once its sequencer is idle the handler runs only if it ran before: a dispatch that ends in the interrupt
context leaves none in the foreground. -/
theorem setSeq_idle_seqHandler (hs : s.SequencersLegal) (h : (s.setSeq .idle).ctx = .handler) :
    (s.setSeq .idle).seqHandler = .idle := by
  obtain ⟨hc, hi, -⟩ | ⟨hc, d, hi, -⟩ | ⟨hc, -⟩ := s.ctx_cases
  · rw [State.setSeq_of_foreground hc,
      State.ctx_foreground (s := { s with seqFg := .idle }) hi rfl] at h
    cases h
  · have hseq : s.setSeq .idle = { s with seqIrq := .idle } := by
      unfold State.setSeq
      rw [hc]
    rw [hseq, State.ctx_foreground (s := { s with seqIrq := .idle }) rfl
      (hs.1 (by rw [hi]; nofun))] at h
    cases h
  · rw [State.setSeq_of_handler hc]

theorem sequencersLegal_respond (hs : s.SequencersLegal) (a : Answer) :
    (s.respond a).SequencersLegal := by
  have hs' : ({ s with responses := s.responses ++ [(s.ctx, a.word)] } : State).SequencersLegal := hs
  exact sequencersLegal_handlerReturn (sequencersLegal_setSeq hs' (q := .idle) rfl rfl)
    (setSeq_idle_seqHandler hs')

end Moves

/-! ### The turns -/

section Turns

variable {s t : State} {i : Instr}

theorem ordinary_inOp (h : i ≠ .handleInterrupt) (k : Nat) (tmp : Tmp) :
    (Seq.inOp i k tmp).ordinary = true := by
  cases i <;> first | rfl | exact absurd rfl h

theorem TurnEnds.sequencersLegal {u : State} (h : TurnEnds i u t) (hi : i ≠ .handleInterrupt)
    (hu : u.SequencersLegal) : t.SequencersLegal := by
  cases h with
  | suspended k tmp => exact sequencersLegal_setSeq hu rfl (ordinary_inOp hi k tmp)
  | responded a => exact sequencersLegal_respond hu a
  | raised f => exact sequencersLegal_raise hu f

/-- A dispatch that goes on from a legal place, or one that is entered. -/
theorem DispatchEnds.sequencersLegal {d₀ : Dispatch} {u : State} (h : DispatchEnds d₀ u t)
    (hu : u.SequencersLegal) (hd₀ : d₀.legal = true) (hc : u.ctx ≠ .handler) :
    t.SequencersLegal := by
  cases h with
  | responded => exact sequencersLegal_respond hu _
  | suspended d hl hp =>
    obtain ⟨hone, hhandler, hfg, hord, hquiet, -⟩ := hu
    exact sequencersLegal_setDispatch hone hhandler hfg hord (hl hd₀) fun _ => hquiet hc
  | called d hl hp words ending =>
    obtain ⟨hone, hhandler, hfg, hord, -, -⟩ := hu
    exact sequencersLegal_setDispatch hone hhandler hfg hord (hl hd₀) fun h => absurd hp h

theorem HandleInterruptEnds.sequencersLegal (h : HandleInterruptEnds s t) (hs : s.SequencersLegal) :
    t.SequencersLegal := by
  cases h with
  | raised => exact sequencersLegal_raise hs _
  | ignored => exact hs
  | entered hc _ =>
    have hi := State.seqIrq_of_foreground hc
    have hset : s.setDispatch Dispatch.start = { s with seqFg := .dispatch Dispatch.start } := by
      unfold State.setDispatch
      rw [hi]
    obtain ⟨hone, hhandler, hfg, hord, hquiet, -⟩ := hs
    rw [← hset]
    exact sequencersLegal_setDispatch hone hhandler hfg hord rfl fun _ => hquiet (by rw [hc]; nofun)
  | ran d₀ hc hd hu ht =>
    have hd₀ : d₀.legal = true := by
      obtain hd | rfl := hd
      · exact hs.2.2.2.2.2 d₀ hd
      · rfl
    exact ht.sequencersLegal (hu.sequencersLegal hs) hd₀ (by rw [hu.ctx]; exact hc)

theorem exec_sequencersLegal (h : exec i s = .next t) (hs : s.SequencersLegal) :
    t.SequencersLegal := by
  by_cases hi : i = .handleInterrupt
  · subst hi
    exact (exec_handleInterrupt_ends h).sequencersLegal hs
  · obtain rfl | ⟨u, hsame, -, hend⟩ := exec_ends h hi (R := fun _ => True) trivial
      (fun _ _ _ _ _ => trivial) (fun _ _ _ _ => trivial)
    · exact hs
    · exact hend.sequencersLegal hi (hsame.sequencersLegal hs)

theorem present_sequencersLegal {w : CmdWord} (h : present w s = .next t) (hs : s.SequencersLegal) :
    t.SequencersLegal := by
  obtain ⟨i, -, h⟩ | rfl := present_cases h
  · exact exec_sequencersLegal h hs
  · exact sequencersLegal_raise hs _

/-- What the handler has still to do is free while the handler runs. -/
theorem sequencersLegal_handlerWords (hc : s.ctx = .handler) (hs : s.SequencersLegal)
    (ws : List CmdWord) : ({ s with handlerWords := ws } : State).SequencersLegal := by
  obtain ⟨hone, hhandler, hfg, hord, -, hlegal⟩ := hs
  exact ⟨hone, hhandler, hfg, hord, fun h => absurd hc h, hlegal⟩

theorem CpuTurn.sequencersLegal (h : CpuTurn s t) (hs : s.SequencersLegal) : t.SequencersLegal := by
  cases h with
  | nothing _ ht => exact ht ▸ hs
  | resumes _ _ _ _ _ ht => exact exec_sequencersLegal ht hs
  | dispatches _ ht => exact exec_sequencersLegal ht hs
  | accepts w ws _ _ ht => exact present_sequencersLegal ht (s := { s with port := ws }) hs
  | issues w ws hc _ ht => exact present_sequencersLegal ht (sequencersLegal_handlerWords hc hs ws)
  | returns _ hq ht => exact ht ▸ sequencersLegal_handlerReturn hs fun _ => hq

theorem inDispatch_false_of_currentDispatch (h : s.currentDispatch = none) :
    s.seqFg.inDispatch = false := by
  unfold State.currentDispatch at h
  split at h
  · cases h
  · cases hf : s.seqFg with
    | dispatch d => simp [hf] at h
    | idle => rfl
    | inOp i k tmp => rfl

/-- `TakeIrq` enters a dispatch where none is in progress. -/
theorem takeIrq_sequencersLegal (h : s.takeIrqEnabled = true) (hs : s.SequencersLegal) :
    s.takeIrq.SequencersLegal := by
  have hnone : s.currentDispatch = none := by
    simpa [State.takeIrqEnabled, State.dispatching] using And.right (Bool.and_eq_true_iff.1 h)
  have hc : s.ctx ≠ .handler := fun hc => by
    obtain ⟨d, hd, -⟩ := ctx_eq_handler_iff.1 hc
    rw [hnone] at hd
    cases hd
  obtain ⟨-, hhandler, hfg, hord, hquiet, -⟩ := hs
  have hfg' := inDispatch_false_of_currentDispatch hnone
  exact ⟨fun _ => hfg', hhandler, hfg, hord, fun _ => hquiet hc,
    fun d hd => by cases hd; rfl⟩

theorem event_sequencersLegal (e : Event) (hs : s.SequencersLegal) : (s.event e).SequencersLegal := by
  obtain ⟨c, hc⟩ | rfl | ⟨hz, rfl⟩ := event_cases e
  · obtain ⟨_, _, _, h⟩ := (writesChannel_event hc s).rest
    rw [h]
    exact hs
  · show (if s.takeIrqEnabled then s.takeIrq else s).SequencersLegal
    split
    · next h => exact takeIrq_sequencersLegal h hs
    · exact hs
  · exact hs

end Turns

/-- Settles O11, by the turn the step takes. -/
theorem stepKeepsSequencersLegal : Obligations.StepKeepsSequencersLegal := by
  intro s t hs h
  obtain ⟨-, rest, n, hcpu | ⟨e, -, rfl⟩⟩ := step_cases h
  · exact hcpu.sequencersLegal hs
  · exact event_sequencersLegal e hs

/-! ### The foreground during a dispatch of the interrupt context -/

/-- `t` has the foreground sequencer and the port of `s`. -/
def ForegroundWaits (s t : State) : Prop := t.seqFg = s.seqFg ∧ t.port = s.port

section Waits

variable {s t u : State}

theorem seqFg_setDispatch (hi : s.seqIrq ≠ .idle) (d : Dispatch) : (s.setDispatch d).seqFg = s.seqFg := by
  unfold State.setDispatch
  split
  · rfl
  · exact absurd ‹_› hi

theorem ctx_ne_foreground (hi : s.seqIrq ≠ .idle) : s.ctx ≠ .foreground :=
  fun h => hi (State.seqIrq_of_foreground h)

theorem seqFg_setSeq (hc : s.ctx ≠ .foreground) (q : Seq) : (s.setSeq q).seqFg = s.seqFg := by
  unfold State.setSeq
  split
  · exact absurd ‹_› hc
  · rfl
  · split <;> rfl

/-- The handler's return puts the dispatch of the interrupt context at another place. -/
theorem seqFg_handlerReturn (h : s.ctx = .handler → s.seqIrq ≠ .idle) :
    s.handlerReturn.seqFg = s.seqFg := by
  unfold State.handlerReturn
  split
  · next hc _ _ _ => exact seqFg_setDispatch (h hc) _
  · rfl

/-- With the foreground in no dispatch, a handler runs only in the interrupt context's. -/
theorem seqIrq_of_handler (hf : s.seqFg.inDispatch = false) (hc : s.ctx = .handler) :
    s.seqIrq ≠ .idle := fun hi => by
  rw [State.ctx_foreground hi hf] at hc
  cases hc

theorem seqFg_respond (hi : s.seqIrq ≠ .idle) (hf : s.seqFg.inDispatch = false) (a : Answer) :
    (s.respond a).seqFg = s.seqFg := by
  have hq := seqFg_setSeq (s := { s with responses := s.responses ++ [(s.ctx, a.word)] })
    (ctx_ne_foreground hi) .idle
  exact (seqFg_handlerReturn fun h => seqIrq_of_handler (by rw [hq]; exact hf) h).trans hq

theorem seqFg_raise (hi : s.seqIrq ≠ .idle) (f : Fault) : (s.raise f).seqFg = s.seqFg :=
  seqFg_setSeq (s := { s with faultLog := s.faultLog ++ [f] }) (ctx_ne_foreground hi) _

theorem exec_foregroundWaits {i : Instr} (h : exec i s = .next t) (hi : s.seqIrq ≠ .idle)
    (hf : s.seqFg.inDispatch = false) : ForegroundWaits s t := by
  by_cases hI : i = .handleInterrupt
  · subst hI
    cases exec_handleInterrupt_ends h with
    | raised => exact ⟨seqFg_raise hi _, by simp⟩
    | ignored => exact ⟨rfl, rfl⟩
    | entered hc => exact absurd hc (ctx_ne_foreground hi)
    | @ran u _ d₀ _ _ hu ht =>
      have hi' : u.seqIrq ≠ .idle := by rw [hu.seqIrq]; exact hi
      cases ht with
      | suspended d => exact ⟨(seqFg_setDispatch hi' d).trans hu.seqFg, by simp [hu.port]⟩
      | called d _ _ words ending =>
        exact ⟨(seqFg_setDispatch (s := { u with handlerWords := words, handlerEnd := ending }) hi' d).trans
          hu.seqFg, by simp [hu.port]⟩
      | responded =>
        exact ⟨(seqFg_respond hi' (by rw [hu.seqFg]; exact hf) _).trans hu.seqFg, by simp [hu.port]⟩
  · obtain rfl | ⟨u, hu, -, hend⟩ := exec_ends h hI (R := fun _ => True) trivial
      (fun _ _ _ _ _ => trivial) (fun _ _ _ _ => trivial)
    · exact ⟨rfl, rfl⟩
    have hi' : u.seqIrq ≠ .idle := by rw [hu.seqIrq]; exact hi
    cases hend with
    | suspended k tmp =>
      exact ⟨(seqFg_setSeq (ctx_ne_foreground hi') _).trans hu.seqFg, by simp [hu.port]⟩
    | responded a =>
      exact ⟨(seqFg_respond hi' (by rw [hu.seqFg]; exact hf) a).trans hu.seqFg, by simp [hu.port]⟩
    | raised f => exact ⟨(seqFg_raise hi' f).trans hu.seqFg, by simp [hu.port]⟩

theorem CpuTurn.foregroundWaits (h : CpuTurn s t) (hi : s.seqIrq ≠ .idle)
    (hf : s.seqFg.inDispatch = false) : ForegroundWaits s t := by
  cases h with
  | nothing hc _ => exact absurd hc (ctx_ne_foreground hi)
  | resumes _ _ _ _ _ ht => exact exec_foregroundWaits ht hi hf
  | dispatches _ ht => exact exec_foregroundWaits ht hi hf
  | accepts _ _ hc _ _ => exact absurd hc (ctx_ne_foreground hi)
  | issues w ws hc _ ht =>
    obtain ⟨i, -, ht⟩ | rfl := present_cases ht
    · exact exec_foregroundWaits (s := { s with handlerWords := ws }) ht hi hf
    · exact ⟨seqFg_raise (s := { s with handlerWords := ws }) hi _, by simp⟩
  | returns _ _ ht =>
    subst ht
    exact ⟨seqFg_handlerReturn fun _ => hi, by simp⟩

end Waits

/-- Settles O53: with the interrupt context in a dispatch the running sequencer is its own or the handler's,
and no event touches the foreground. -/
theorem foregroundWaitsDuringADispatch : Obligations.ForegroundWaitsDuringADispatch := by
  intro s t hs hi h
  obtain ⟨-, rest, n, hcpu | ⟨e, -, rfl⟩⟩ := step_cases h
  · exact hcpu.foregroundWaits (s := s.beginTurn rest n) hi (hs.1 hi)
  · obtain ⟨_, _, _, _, _, he⟩ := event_eq (s.beginTurn rest n) e
    rw [he]
    exact ⟨rfl, rfl⟩

end Sys2Proof.Machine
end

section
/-! PROOFS. The divider integer part is never 0 (10_state.md R12). Three operations write `DIV`, each from a
place where the divider to be written has passed a check or is a plan's; so the invariant that no channel
has integer part 0 has to say the same of the divider a sequencer holds before such a write. -/

namespace Sys2Proof.Machine

open Sys2Proof

/-! ### The moves on the state -/

section Moves

variable {s u : State}

theorem State.DividersLegal.congr (h : s.DividersLegal) (hc : ∀ c, (u.chan c).div = (s.chan c).div)
    (hf : u.seqFg = s.seqFg) (hh : u.seqHandler = s.seqHandler) : u.DividersLegal := by
  obtain ⟨hchan, hfg, hhandler⟩ := h
  refine ⟨fun c => ?_, hf ▸ hfg, hh ▸ hhandler⟩
  rw [Channel.divInt, hc]
  exact hchan c

theorem dividersLegal_setSeq (h : s.DividersLegal) {q : Seq} (hq : q.dividerLegal = true) :
    (s.setSeq q).DividersLegal := by
  obtain ⟨hchan, hfg, hhandler⟩ := h
  unfold State.setSeq
  split
  · exact ⟨hchan, hq, hhandler⟩
  · exact ⟨hchan, hfg, hq⟩
  · split <;> exact ⟨hchan, hfg, hhandler⟩

theorem dividersLegal_setDispatch (h : s.DividersLegal) (d : Dispatch) :
    (s.setDispatch d).DividersLegal := by
  obtain ⟨hchan, hfg, hhandler⟩ := h
  unfold State.setDispatch
  split
  · exact ⟨hchan, hfg, hhandler⟩
  · exact ⟨hchan, rfl, hhandler⟩

theorem dividersLegal_handlerReturn (h : s.DividersLegal) : s.handlerReturn.DividersLegal := by
  unfold State.handlerReturn
  split
  · exact dividersLegal_setDispatch h _
  · exact h

theorem dividersLegal_respond (h : s.DividersLegal) (a : Answer) : (s.respond a).DividersLegal :=
  dividersLegal_handlerReturn
    (dividersLegal_setSeq (s := { s with responses := s.responses ++ [(s.ctx, a.word)] }) h rfl)

theorem dividersLegal_raise (h : s.DividersLegal) (f : Fault) : (s.raise f).DividersLegal :=
  dividersLegal_setSeq (s := { s with faultLog := s.faultLog ++ [f] }) h rfl

/-- A write of `DIV` with a legal integer part. -/
theorem dividersLegal_writeDiv (h : s.DividersLegal) (c : ChannelId) {v : Word}
    (hv : ((s.chan c).writeDiv v).divInt ≠ 0) : (s.regWrite (.div c) v).DividersLegal := by
  obtain ⟨hchan, hfg, hhandler⟩ := h
  refine ⟨fun d => ?_, hfg, hhandler⟩
  rw [State.regWrite, State.chan_setChan]
  split
  · exact hv
  · exact hchan d

/-- Only a write of its `DIV` changes a channel's divider. -/
theorem chan_div_regWrite {r : Reg} (hr : ∀ c, r ≠ .div c) (v : Word) (d : ChannelId) :
    ((s.regWrite r v).chan d).div = (s.chan d).div := by
  have hset (c : ChannelId) (ch : Channel) (hch : ch.div = (s.chan c).div) :
      ((s.setChan c ch).chan d).div = (s.chan d).div := by
    rw [State.chan_setChan]
    split
    · next h => rw [hch, h]
    · rfl
  cases r with
  | csr c => exact hset c _ rfl
  | div c => exact absurd rfl (hr c)
  | ctr c => exact hset c _ rfl
  | cc c => exact hset c _ rfl
  | top c => exact hset c _ rfl
  | en => rw [State.regWrite, State.chan_writeEnables]; rfl
  | intr | inte | intf | ints => rfl

theorem dividersLegal_regWrite (h : s.DividersLegal) {r : Reg} (hr : ∀ c, r ≠ .div c) (v : Word) :
    (s.regWrite r v).DividersLegal :=
  h.congr (chan_div_regWrite hr v) (by simp) (by simp)

/-- The sequencer that runs holds no divider with integer part 0 either. -/
theorem seq_dividerLegal (h : s.DividersLegal) : s.seq.dividerLegal = true := by
  obtain ⟨-, hfg, hhandler⟩ := h
  unfold State.seq
  split
  · exact hfg
  · exact hhandler
  · split <;> rfl

end Moves

/-! ### The dividers that are written -/

theorem dividerWord_divInt_ne {ch : Channel} {divInt divFrac : BitVec 8}
    (h : dividerMalformed divInt divFrac = false) :
    (ch.writeDiv (dividerWord divInt divFrac)).divInt ≠ 0 := by
  have hm : ¬(divInt = 0 ∨ 15 < divFrac.toNat) := by
    rw [← dividerMalformed_iff, h]
    nofun
  rw [(writeDiv_dividerWord ch divInt divFrac (by omega)).1]
  exact fun h0 => hm (.inl h0)

/-- A plan's divider is at least 1 (42_planner.md R123). -/
theorem solveTopDivider_divInt_ne {sys freq : Nat} {p : Plan} (h : solveTopDivider sys freq = some p) :
    p.divInt ≠ 0 := by
  unfold solveTopDivider at h
  simp only [dividerTooLarge, decide_eq_true_eq] at h
  split at h
  · cases h; nofun
  · split at h
    · cases h
    · next hle hlt =>
      cases h
      have hfreq : 0 < freq := by omega
      have hpos : 1 ≤ thresholdHz sys / freq := (Nat.le_div_iff_mul_le hfreq).2 (by omega)
      have hbound : thresholdHz sys / freq < 256 := (Nat.div_lt_iff_lt_mul hfreq).2 (by omega)
      have hint : (planDivided (thresholdHz sys) freq).divInt.toNat = thresholdHz sys / freq :=
        toNat_ofNat_of_lt hbound
      intro h0
      rw [h0] at hint
      exact absurd hint (Nat.ne_of_lt hpos)

/-! ### The micro-steps of an operation -/

/-- The micro-step of operation `i` leaves no divider with integer part 0, neither in a channel nor in the
place where the operation goes on. -/
inductive DividerSafe (i : Instr) : Micro (Nat × Tmp) → Prop where
  | next {k : Nat} {t : Tmp} {s : State} (hs : s.DividersLegal)
      (hp : (Seq.inOp i k t).dividerLegal = true) : DividerSafe i (.next (k, t) s)
  | done {s : State} (hs : s.DividersLegal) : DividerSafe i (.done s)

section Bodies

variable {s : State} (hs : s.DividersLegal)
include hs

/-- An operation that does not write `DIV`. -/
theorem MicroOf.dividerSafe {i : Instr} {m : Micro (Nat × Tmp)} (h : MicroOf i s m)
    (hw : ∀ c, writesReg i (.div c) = false) (hp : ∀ k t, (Seq.inOp i k t).dividerLegal = true) :
    DividerSafe i m := by
  cases h with
  | quiet p => exact .next hs (hp _ _)
  | write p r v hr =>
    have hr' (c : ChannelId) : r ≠ .div c := fun h => by
      rw [h, hw c] at hr
      cases hr
    exact .next (dividersLegal_regWrite hs hr' v) (hp _ _)
  | handler p x _ => exact .next hs (hp _ _)
  | respond a => exact .done (dividersLegal_respond hs a)
  | raise f => exact .done (dividersLegal_raise hs f)

theorem setDividerBody_dividerSafe {c : ChannelId} {divInt divFrac : BitVec 8} {k : Nat} {t : Tmp}
    (hp : (Seq.inOp (.setDivider c divInt divFrac) k t).dividerLegal = true) :
    DividerSafe (.setDivider c divInt divFrac) (setDividerBody c divInt divFrac k t s) := by
  unfold setDividerBody
  split
  · split
    · exact .done (dividersLegal_respond hs _)
    · next h => exact .next hs (by simp [Seq.dividerLegal, h])
  · have hm : dividerMalformed divInt divFrac = false := by simpa [Seq.dividerLegal] using hp
    exact .next (dividersLegal_writeDiv hs c (dividerWord_divInt_ne hm)) rfl
  · exact .done (dividersLegal_respond hs _)

theorem configureBody_dividerSafe {c : ChannelId} {snap : Snapshot} {k : Nat} {t : Tmp}
    (hp : (Seq.inOp (.configure c snap) k t).dividerLegal = true) :
    DividerSafe (.configure c snap) (configureBody c snap k t s) := by
  unfold configureBody
  split
  case h_8 =>
    refine .next hs ?_
    split
    · rfl
    · next h => simp [Seq.dividerLegal, h]
  case h_9 =>
    have hm : dividerMalformed snap.divInt snap.divFrac = false := by simpa [Seq.dividerLegal] using hp
    exact .next (dividersLegal_writeDiv hs c (dividerWord_divInt_ne hm)) rfl
  case h_16 => exact .done (dividersLegal_respond hs _)
  case h_1 | h_3 | h_5 | h_10 | h_12 | h_14 => exact .next hs rfl
  all_goals exact .next (dividersLegal_regWrite hs (by simp) _) rfl

theorem startBody_dividerSafe {pin : BitVec 8} {freq duty : BitVec 32} {k : Nat} {t : Tmp}
    (hp : (Seq.inOp (.start pin freq duty) k t).dividerLegal = true) :
    DividerSafe (.start pin freq duty) (startBody pin freq duty k t s) := by
  unfold startBody
  split
  · exact .next hs rfl
  · split
    · exact .done (dividersLegal_raise hs _)
    · split
      · exact .done (dividersLegal_raise hs _)
      · exact .next hs rfl
  · split
    · exact .done (dividersLegal_raise hs _)
    · split
      · exact .done (dividersLegal_raise hs _)
      · exact .next hs rfl
  · split
    · exact .done (dividersLegal_respond hs _)
    · next p h =>
      exact .next hs (by simpa [Seq.dividerLegal] using solveTopDivider_divInt_ne h)
  · exact .next (dividersLegal_regWrite hs (by simp) _) hp
  · have hint : t.divInt ≠ 0 := by simpa [Seq.dividerLegal] using hp
    have hfrac : (t.divFrac.setWidth 8).toNat ≤ 15 := by
      have := t.divFrac.isLt
      rw [BitVec.toNat_setWidth]
      omega
    refine .next (dividersLegal_writeDiv hs _ (dividerWord_divInt_ne ?_)) rfl
    rw [Bool.eq_false_iff, Ne, dividerMalformed_iff]
    exact fun h => h.elim hint (Nat.not_lt.2 hfrac)
  · split
    · exact .done (dividersLegal_respond hs _)
    · exact .next hs rfl
  · exact .next hs rfl
  · exact .next (dividersLegal_regWrite hs (by simp) _) rfl
  · exact .next hs rfl
  · exact .next (dividersLegal_regWrite hs (by simp) _) rfl
  · exact .done (dividersLegal_respond hs _)

theorem body_dividerSafe {i : Instr} {body : OpBody} (hb : bodyOf i = some body) {k : Nat} {t : Tmp}
    (hp : (Seq.inOp i k t).dividerLegal = true) : DividerSafe i (body k t s) := by
  have hc := body_cases hb k t s
  cases i
  case setDivider => cases hb; exact setDividerBody_dividerSafe hs hp
  case configure => cases hb; exact configureBody_dividerSafe hs hp
  case start => cases hb; exact startBody_dividerSafe hs hp
  all_goals exact hc.dividerSafe hs (fun _ => rfl) (fun _ _ => rfl)

end Bodies

/-! ### The turns -/

section Turns

variable {s t : State} {i : Instr}

/-- An operation goes on at a place that holds a legal divider, or begins at its micro-step 1. -/
theorem place_dividerLegal {q : Seq} (hq : q.dividerLegal = true) {p : Nat × Tmp}
    (h : q.place i = some p) : (Seq.inOp i p.1 p.2).dividerLegal = true := by
  unfold Seq.place at h
  split at h
  · cases h; cases i <;> rfl
  · next j k tmp =>
    split at h
    · next hij => cases h; cases hij; exact hq
    · cases h
  · cases h

theorem runOp_dividersLegal {body : OpBody} (hb : bodyOf i = some body) (hs : s.DividersLegal) :
    (runOp i body s).DividersLegal := by
  unfold runOp
  split
  · next p hp =>
    refine runMicros_induct
      (I := fun p u => u.DividersLegal ∧ (Seq.inOp i p.1 p.2).dividerLegal = true)
      (Q := State.DividersLegal) ?_ ?_ ?_ ?_ _ p s ⟨hs, place_dividerLegal (seq_dividerLegal hs) hp⟩
    · rintro p u q v ⟨hu, hp⟩ he
      have hsafe := body_dividerSafe hu hb hp
      rw [he] at hsafe
      cases hsafe with
      | next hv hq => exact ⟨hv, hq⟩
    · rintro p u q v ⟨hu, hp⟩ he
      have hsafe := body_dividerSafe hu hb hp
      rw [he] at hsafe
      cases hsafe
    · rintro p u v ⟨hu, hp⟩ he
      have hsafe := body_dividerSafe hu hb hp
      rw [he] at hsafe
      cases hsafe with
      | done hv => exact hv
    · rintro p u ⟨hu, hp⟩
      exact dividersLegal_setSeq hu hp
  · exact hs

theorem HandleInterruptEnds.dividersLegal (h : HandleInterruptEnds s t) (hs : s.DividersLegal) :
    t.DividersLegal := by
  cases h with
  | raised => exact dividersLegal_raise hs _
  | ignored => exact hs
  | entered => exact ⟨hs.1, rfl, hs.2.2⟩
  | @ran u _ d₀ _ _ hu ht =>
    have hu' : u.DividersLegal :=
      hs.congr (fun c => by rw [State.chan_congr hu.chans c]) hu.seqFg hu.seqHandler
    cases ht with
    | suspended d => exact dividersLegal_setDispatch hu' d
    | called d _ _ words ending =>
      exact dividersLegal_setDispatch (s := { u with handlerWords := words, handlerEnd := ending }) hu' d
    | responded => exact dividersLegal_respond hu' _

theorem exec_dividersLegal (h : exec i s = .next t) (hs : s.DividersLegal) : t.DividersLegal := by
  cases hb : bodyOf i with
  | none =>
    rw [bodyOf_eq_none hb] at h
    exact (exec_handleInterrupt_ends h).dividersLegal hs
  | some body =>
    rw [exec_of_bodyOf hb, Host.Outcome.next.injEq] at h
    exact h ▸ runOp_dividersLegal hb hs

theorem present_dividersLegal {w : CmdWord} (h : present w s = .next t) (hs : s.DividersLegal) :
    t.DividersLegal := by
  obtain ⟨i, -, h⟩ | rfl := present_cases h
  · exact exec_dividersLegal h hs
  · exact dividersLegal_raise hs _

theorem CpuTurn.dividersLegal (h : CpuTurn s t) (hs : s.DividersLegal) : t.DividersLegal := by
  cases h with
  | nothing _ ht => exact ht ▸ hs
  | resumes _ _ _ _ _ ht => exact exec_dividersLegal ht hs
  | dispatches _ ht => exact exec_dividersLegal ht hs
  | accepts w ws _ _ ht => exact present_dividersLegal ht (s := { s with port := ws }) hs
  | issues w ws _ _ ht => exact present_dividersLegal ht (s := { s with handlerWords := ws }) hs
  | returns _ _ ht => exact ht ▸ dividersLegal_handlerReturn hs

/-- No event writes `DIV` (45_timer_array.md R200). -/
theorem chan_div_event (s : State) (e : Event) (d : ChannelId) :
    ((s.event e).chan d).div = (s.chan d).div := by
  obtain ⟨c, hc⟩ | rfl | ⟨hz, rfl⟩ := event_cases e
  · rw [(writesChannel_event hc s).chan_eq_ite]
    split
    · next h => rw [h]; exact (Channel.KeepsSettings.chanAfter e _ _).div
    · rfl
  · show ((if s.takeIrqEnabled then s.takeIrq else s).chan d).div = _
    split <;> rfl
  · rfl

theorem event_dividersLegal (e : Event) (hs : s.DividersLegal) : (s.event e).DividersLegal := by
  obtain ⟨_, _, _, _, _, he⟩ := event_eq s e
  exact hs.congr (chan_div_event s e) (by rw [he]) (by rw [he])

end Turns

/-- Settles O10, by the turn the step takes. -/
theorem stepKeepsDividersLegal : Obligations.StepKeepsDividersLegal := by
  intro s t hs h
  obtain ⟨-, rest, n, hcpu | ⟨e, -, rfl⟩⟩ := step_cases h
  · exact hcpu.dividersLegal hs
  · exact event_dividersLegal e hs

end Sys2Proof.Machine
end

section
/-! PROOFS. A fault leaves no partial update (60_exceptions.md R212). An operation that can fault and writes
registers is `start` alone, and its checks come before its first write; the other operations that can fault
write nothing, and the rest cannot fault. -/

namespace Sys2Proof.Machine

open Sys2Proof

section Faults

variable {i : Instr} {s t u : State}

/-- A turn that ends on the state it began with and records a fault has raised it and done nothing else. -/
theorem TurnEnds.eq_raise (h : TurnEnds i s t) (hf : t.faultLog ≠ s.faultLog) : ∃ f, t = s.raise f := by
  cases h with
  | suspended k tmp => exact absurd (State.setSeq_faultLog s _) hf
  | responded a => exact absurd (State.respond_faultLog s a) hf
  | raised f => exact ⟨f, rfl⟩

/-- An operation that writes nothing ends on the state it began with. -/
theorem exec_observes (h : exec i s = .next t) (hi : observes i = true) :
    t = s ∨ TurnEnds i s t := by
  have hne : i ≠ .handleInterrupt := fun h => by rw [h] at hi; cases hi
  have hw : ∀ r, writesReg i r = false := by
    cases i <;> first | exact fun _ => rfl | cases hi
  have hh : ∀ x, i ≠ .setHandler x := fun x h => by rw [h] at hi; cases hi
  obtain h | ⟨u, -, hu, h⟩ := exec_ends h hne (R := fun u => u = s) rfl
    (fun u r v hr _ => by rw [hw r] at hr; cases hr) (fun u x hx _ => absurd hx (hh x))
  · exact .inl h
  · exact .inr (hu ▸ h)

/-! ### `start` -/

section Start

variable {pin : BitVec 8} {freq duty : BitVec 32} {k : Nat} {tmp : Tmp}

/-- Nothing before step 5 of `start` writes a register (43_channel_controller.md R140). -/
theorem startBody_next_of_lt {q : Nat × Tmp} (hk : k < 5)
    (h : startBody pin freq duty k tmp s = .next q u) : u = s := by
  unfold startBody at h
  split at h
  case h_1 => cases h; rfl
  case h_2 =>
    split at h
    · cases h
    · split at h
      · cases h
      · cases h; rfl
  case h_3 =>
    split at h
    · cases h
    · split at h
      · cases h
      · cases h; rfl
  case h_4 =>
    split at h
    · cases h
    · cases h; rfl
  case h_12 => cases h
  all_goals omega

/-- The checks of `start` are its steps 2 and 3. -/
theorem startBody_faults_early (h : startBody pin freq duty k tmp s = .done u)
    (hf : u.faultLog ≠ s.faultLog) : k < 4 := by
  unfold startBody at h
  split at h
  case h_4 | h_7 => split at h <;> cases h; exact absurd (State.respond_faultLog s _) hf
  case h_12 => cases h; exact absurd (State.respond_faultLog s _) hf
  all_goals first | omega | cases h

theorem exec_start_fault (h : exec (.start pin freq duty) s = .next t)
    (hf : t.faultLog ≠ s.faultLog) : ∃ f, t = s.raise f := by
  rw [exec_of_bodyOf rfl, Host.Outcome.next.injEq] at h
  subst h
  revert hf
  unfold runOp
  split
  · next p _ =>
    refine runMicros_induct
      (I := fun (p : Nat × Tmp) u => u.faultLog = s.faultLog ∧ (u = s ∨ 4 ≤ p.1))
      (Q := fun t => t.faultLog ≠ s.faultLog → ∃ f, t = s.raise f) ?_ ?_ ?_ ?_ _ p s ⟨rfl, .inl rfl⟩
    · rintro ⟨k, tmp⟩ u q v ⟨hlog, hu⟩ he
      have hc := startBody_cases pin freq duty k tmp u
      have hfw := startBody_forward pin freq duty k tmp u
      rw [he] at hc hfw
      cases hfw
      refine ⟨by cases hc <;> simp [hlog], ?_⟩
      by_cases hk : k < 4
      · exact .inl ((startBody_next_of_lt (by omega) he).trans (hu.resolve_right (by omega)))
      · exact .inr (by omega)
    · rintro ⟨k, tmp⟩ u q v - he
      have hc := startBody_cases pin freq duty k tmp u
      rw [he] at hc
      cases hc
    · rintro ⟨k, tmp⟩ u v ⟨hlog, hu⟩ he hf
      have hk := startBody_faults_early he (hlog ▸ hf)
      have hc := startBody_cases pin freq duty k tmp u
      rw [he] at hc
      cases hc with
      | respond a => exact absurd ((State.respond_faultLog u a).trans hlog) hf
      | raise f => exact ⟨f, by rw [hu.resolve_right (by omega)]⟩
    · rintro p u ⟨hlog, -⟩ hf
      exact absurd ((State.setSeq_faultLog u _).trans hlog) hf
  · exact fun hf => absurd rfl hf

end Start

/-! ### The operations that cannot fault -/

section NoFault

variable (k : Nat) (tmp : Tmp) (s : State)

theorem rmwBody_faultLog (r : Reg) (f : Word → Word) :
    (rmwBody r f k tmp s).state.faultLog = s.faultLog := by
  unfold rmwBody
  split <;> simp [readTo, writeTo, answer]

theorem writeBody_faultLog (r : Reg) (v : Word) :
    (writeBody r v k tmp s).state.faultLog = s.faultLog := by
  unfold writeBody
  split <;> simp [writeTo, answer]

theorem handshakeBody_faultLog (c : ChannelId) (f : Word → Word) (g : Word → Bool) :
    (handshakeBody c f g k tmp s).state.faultLog = s.faultLog := by
  unfold handshakeBody
  split <;> simp [readTo, writeTo, goto, answer]

theorem setDividerBody_faultLog (c : ChannelId) (divInt divFrac : BitVec 8) :
    (setDividerBody c divInt divFrac k tmp s).state.faultLog = s.faultLog := by
  unfold setDividerBody
  split
  · split <;> simp [goto, answer]
  · simp [writeTo]
  · simp [answer]

theorem configureBody_faultLog (c : ChannelId) (snap : Snapshot) :
    (configureBody c snap k tmp s).state.faultLog = s.faultLog := by
  unfold configureBody
  split <;> simp [readTo, writeTo, goto, answer]

theorem stopBody_faultLog (pin : BitVec 8) : (stopBody pin k tmp s).state.faultLog = s.faultLog := by
  unfold stopBody
  split <;> simp [readTo, writeTo, goto, answer]

theorem setHandlerBody_faultLog (x : Handle) :
    (setHandlerBody x k tmp s).state.faultLog = s.faultLog := by
  unfold setHandlerBody
  split <;> simp [goto, answer]

theorem body_faultLog {body : OpBody} (hb : bodyOf i = some body) (hi : observes i = false)
    (hstart : ∀ pin freq duty, i ≠ .start pin freq duty) :
    (body k tmp s).state.faultLog = s.faultLog := by
  cases i <;> cases hb <;> first | cases hi; done | skip
  case start pin freq duty => exact absurd rfl (hstart pin freq duty)
  case setDivider => exact setDividerBody_faultLog k tmp s _ _ _
  case setTop | setCounter | clearInterrupt => exact writeBody_faultLog k tmp s _ _
  case configure => exact configureBody_faultLog k tmp s _ _
  case stop => exact stopBody_faultLog k tmp s _
  case advancePhase | retardPhase => exact handshakeBody_faultLog k tmp s _ _ _
  case setHandler => exact setHandlerBody_faultLog k tmp s _
  all_goals exact rmwBody_faultLog k tmp s _ _

end NoFault

/-- A turn that records a fault has done nothing else. -/
theorem exec_fault (h : exec i s = .next t) (hf : t.faultLog ≠ s.faultLog) : ∃ f, t = s.raise f := by
  by_cases hobs : observes i = true
  · obtain rfl | hend := exec_observes h hobs
    · exact absurd rfl hf
    · exact hend.eq_raise hf
  by_cases hstart : ∃ pin freq duty, i = .start pin freq duty
  · obtain ⟨pin, freq, duty, rfl⟩ := hstart
    exact exec_start_fault h hf
  cases hb : bodyOf i with
  | none =>
    rw [bodyOf_eq_none hb] at h
    cases exec_handleInterrupt_ends h with
    | raised => exact ⟨_, rfl⟩
    | ignored => exact absurd rfl hf
    | entered => exact absurd rfl hf
    | ran d₀ _ _ hu ht =>
      obtain ⟨-, -, -, -, -, -, hlog⟩ := ht.keeps
      exact absurd (hlog.trans hu.faultLog) hf
  | some body =>
    rw [exec_of_bodyOf hb, Host.Outcome.next.injEq] at h
    subst h
    refine absurd ?_ hf
    exact runOp_keeps (R := fun u => u.faultLog = s.faultLog)
      (fun k tmp u hu => (body_faultLog k tmp u hb (Bool.eq_false_iff.2 hobs)
        fun pin freq duty he => hstart ⟨pin, freq, duty, he⟩).trans hu)
      (fun u q hu => (State.setSeq_faultLog u q).trans hu) rfl

end Faults

/-- Settles O14: a turn that records a fault has raised it in the state it began with. -/
theorem faultLeavesNoPartialUpdate : Obligations.FaultLeavesNoPartialUpdate := by
  intro i s t h hf
  obtain ⟨f, rfl⟩ := exec_fault h hf
  exact ⟨⟨fun c => by simp, by simp [KeepsInterrupts]⟩, by simp, by simp, by simp, f, by simp⟩

end Sys2Proof.Machine
end

section
/-! PROOFS. The register bank (20_memory.md R40 to R45): where each register stands, what it reads after a
write, and that a write of one leaves the others. -/

namespace Sys2Proof.Machine

open Sys2Proof

/-! ### Offsets -/

theorem offset_of_channelRegAt {c : ChannelId} {off : Nat} {r : Reg} (h : channelRegAt c off = some r) :
    r.offset = 0x14 * c.val + off := by
  unfold channelRegAt at h
  split at h <;> cases h <;> rfl

theorem offset_of_wideRegAt {a : Nat} {r : Reg} (h : wideRegAt a = some r) : r.offset = a := by
  unfold wideRegAt at h
  split at h <;> cases h <;> rfl

/-- No register is found at an offset that is not its own. -/
theorem offset_of_regAt {a : Nat} {r : Reg} (h : regAt a = some r) : r.offset = a := by
  unfold regAt at h
  split at h
  · rw [offset_of_channelRegAt h]
    exact Nat.div_add_mod a 0x14
  · exact offset_of_wideRegAt h

/-- Each register is found at its offset. -/
theorem regAt_offset (r : Reg) : regAt r.offset = some r := by
  cases r <;> first | rfl | (rename_i c; revert c; decide)

theorem offset_aligned_le (r : Reg) : r.offset % 4 = 0 ∧ r.offset ≤ 0xB0 := by
  have hc (c : ChannelId) : c.val < 8 := c.isLt
  cases r
  case csr c | div c | ctr c | cc c | top c => have := hc c; simp only [Reg.offset]; omega
  all_goals decide

/-- Every word-aligned offset of the bank is a register's: of a channel below `0xA0`, else a wide one. -/
theorem isSome_regAt {a : Nat} (hmod : a % 4 = 0) (hle : a ≤ 0xB0) : (regAt a).isSome = true := by
  unfold regAt
  split
  · obtain h | h | h | h | h : a % 0x14 = 0 ∨ a % 0x14 = 4 ∨ a % 0x14 = 8 ∨ a % 0x14 = 12 ∨
        a % 0x14 = 16 := by omega
    all_goals rw [h]; rfl
  · obtain rfl | rfl | rfl | rfl | rfl : a = 0xA0 ∨ a = 0xA4 ∨ a = 0xA8 ∨ a = 0xAC ∨ a = 0xB0 := by
      omega
    all_goals rfl

/-- Settles O16. -/
theorem registerMapIsTheTable : Obligations.RegisterMapIsTheTable := by
  refine ⟨fun c => ⟨regAt_offset (.csr c), regAt_offset (.div c), regAt_offset (.ctr c),
    regAt_offset (.cc c), regAt_offset (.top c)⟩, rfl, rfl, rfl, rfl, rfl,
    fun a r => offset_of_regAt, fun a => ⟨fun h => ?_, fun ⟨hmod, hle⟩ => ?_⟩⟩
  · obtain ⟨r, hr⟩ := Option.isSome_iff_exists.1 h
    rw [← offset_of_regAt hr]
    exact offset_aligned_le r
  · exact isSome_regAt hmod hle

/-! ### What a register reads after a write -/

/-- The low `n` bits of a word, read back as a word. -/
theorem setWidth_setWidth_word (v : Word) {n : Nat} (h : n ≤ 32) :
    (v.setWidth n).setWidth 32 = v &&& BitVec.ofNat 32 (2 ^ n - 1) := by
  have hpow : 2 ^ n ≤ 2 ^ 32 := Nat.pow_le_pow_right (by decide) h
  have hpos : 0 < 2 ^ n := Nat.two_pow_pos n
  apply BitVec.eq_of_toNat_eq
  rw [BitVec.toNat_and, toNat_ofNat_of_lt (by omega), Nat.and_two_pow_sub_one_eq_mod,
    BitVec.toNat_setWidth, BitVec.toNat_setWidth]
  exact Nat.mod_eq_of_lt (Nat.lt_of_lt_of_le (Nat.mod_lt _ hpos) hpow)

theorem enables_getLsbD (s : State) (c : ChannelId) : s.enables.getLsbD c.val = (s.chan c).en := by
  simp [State.enables]

theorem en_withEnable (ch : Channel) (en : Bool) : (ch.withEnable en).en = en :=
  withEnable_csr_getLsbD ch en 0

/-- After a write of `EN` the enable bits are those written. -/
theorem enables_writeEnables (s : State) (v : Word) : (s.writeEnables v).enables = v.setWidth 8 := by
  apply BitVec.eq_of_getLsbD_eq
  intro k hk
  rw [enables_getLsbD _ ⟨k, hk⟩, State.chan_writeEnables, en_withEnable, BitVec.getLsbD_setWidth]
  simp [hk]

/-- `CSR` read after a write: bits 5:0 as written, and the requests set by 1 and kept by 0. -/
theorem writeCsr_csr_setWidth (ch : Channel) (v : Word) :
    (ch.writeCsr v).csr.setWidth 32 =
      ((v &&& 0x3F) ||| ((ch.csr.setWidth 32 ||| v) &&& 0xC0) : Word) := by
  ext k hk
  interval_cases k <;> simp [Channel.writeCsr]

/-- `INTR` read after a write: the bits written as 1 are cleared. -/
theorem clear_setWidth (x : BitVec 8) (v : Word) :
    (x &&& ~~~(v.setWidth 8)).setWidth 32 = x.setWidth 32 &&& ~~~v := by
  ext k hk
  by_cases h : k < 8
  · simp [h, hk]
  · simp [BitVec.getLsbD_of_ge x k (Nat.not_lt.1 h)]

/-- Settles O17, register by register. -/
theorem registerReadsWhatAWriteLeft : Obligations.RegisterReadsWhatAWriteLeft := by
  intro s v c
  refine ⟨?_, ?_, ?_, ?_, ?_, ?_, ?_, ?_, ?_, rfl, ?_, ?_, fun k hk => ?_⟩
  · simp only [State.regRead, State.regWrite, State.chan_setChan_same]
    exact writeCsr_csr_setWidth _ v
  · simp only [State.regRead, State.regWrite, State.chan_setChan_same, Channel.writeDiv]
    exact setWidth_setWidth_word v (by decide)
  · simp only [State.regRead, State.regWrite, State.chan_setChan_same, Channel.writeCtr]
    exact setWidth_setWidth_word v (by decide)
  · simp only [State.regRead, State.regWrite, State.chan_setChan_same, Channel.writeCc]
  · simp only [State.regRead, State.regWrite, State.chan_setChan_same, Channel.writeTop]
    exact setWidth_setWidth_word v (by decide)
  · rw [State.regRead, State.regWrite, enables_writeEnables]
    exact setWidth_setWidth_word v (by decide)
  · exact clear_setWidth s.intr v
  · exact setWidth_setWidth_word v (by decide)
  · exact setWidth_setWidth_word v (by decide)
  · simp only [State.regRead, State.ints, intStatus, BitVec.setWidth_or, BitVec.setWidth_and]
  · rw [State.regWrite, State.chan_writeEnables, en_withEnable]
  · rw [State.regWrite, State.chan_writeEnables, withEnable_csr_getLsbD, if_neg (by omega)]

/-! ### What a write leaves -/

theorem enables_congr {s t : State} (h : ∀ c, (t.chan c).en = (s.chan c).en) : t.enables = s.enables := by
  unfold State.enables
  exact congrArg BitVec.ofFnLE (funext h)

/-- A channel replaced keeps the reading of each register whose stored bits the new channel keeps. -/
theorem regRead_setChan {s : State} {c : ChannelId} {ch : Channel} {q : Reg}
    (hcsr : q ≠ .csr c ∨ ch.csr = (s.chan c).csr) (hdiv : q ≠ .div c ∨ ch.div = (s.chan c).div)
    (hctr : q ≠ .ctr c ∨ ch.ctr = (s.chan c).ctr) (hcc : q ≠ .cc c ∨ ch.cc = (s.chan c).cc)
    (htop : q ≠ .top c ∨ ch.top = (s.chan c).top) (hen : q ≠ .en ∨ ch.en = (s.chan c).en) :
    (s.setChan c ch).regRead q = s.regRead q := by
  have hfield {α : Type} (f : Channel → α) (d : ChannelId) (h : d ≠ c ∨ f ch = f (s.chan c)) :
      f ((s.setChan c ch).chan d) = f (s.chan d) := by
    rw [State.chan_setChan]
    split
    · next hd => exact hd ▸ h.resolve_left (fun h => h hd.symm)
    · rfl
  have hne {mk : ChannelId → Reg} {d : ChannelId} {P : Prop} (h : mk d ≠ mk c ∨ P) : d ≠ c ∨ P :=
    h.imp_left fun h hd => h (congrArg mk hd)
  cases q with
  | csr d => exact congrArg (BitVec.setWidth 32) (hfield Channel.csr d (hne hcsr))
  | div d => exact congrArg (BitVec.setWidth 32) (hfield Channel.div d (hne hdiv))
  | ctr d => exact congrArg (BitVec.setWidth 32) (hfield Channel.ctr d (hne hctr))
  | cc d => exact hfield Channel.cc d (hne hcc)
  | top d => exact congrArg (BitVec.setWidth 32) (hfield Channel.top d (hne htop))
  | en =>
    exact congrArg (BitVec.setWidth 32)
      (enables_congr fun d => hfield Channel.en d (.inr (hen.resolve_left (absurd rfl))))
  | intr | inte | intf | ints => rfl

/-- Settles O18, by the register written. -/
theorem registerWriteKeepsEveryOther : Obligations.RegisterWriteKeepsEveryOther := by
  intro s r q v hne hen hcsr hints
  cases r with
  | csr c =>
    exact regRead_setChan (.inl hne) (.inr rfl) (.inr rfl) (.inr rfl) (.inr rfl)
      (.inl (hen.resolve_right fun h => h c rfl))
  | div c => exact regRead_setChan (.inr rfl) (.inl hne) (.inr rfl) (.inr rfl) (.inr rfl) (.inr rfl)
  | ctr c => exact regRead_setChan (.inr rfl) (.inr rfl) (.inl hne) (.inr rfl) (.inr rfl) (.inr rfl)
  | cc c => exact regRead_setChan (.inr rfl) (.inr rfl) (.inr rfl) (.inl hne) (.inr rfl) (.inr rfl)
  | top c => exact regRead_setChan (.inr rfl) (.inr rfl) (.inr rfl) (.inr rfl) (.inl hne) (.inr rfl)
  | en =>
    cases q with
    | csr c => exact absurd rfl (hcsr.resolve_left (absurd rfl) c)
    | div c | ctr c | cc c | top c =>
      rw [State.regRead, State.regWrite, State.chan_writeEnables]; rfl
    | en => exact absurd rfl hne
    | intr | inte | intf | ints => rfl
  | intr => cases q <;> first | rfl | exact absurd rfl hne | exact absurd rfl (hints.resolve_left (absurd rfl)).1
  | inte => cases q <;> first | rfl | exact absurd rfl hne | exact absurd rfl (hints.resolve_left (absurd rfl)).2.1
  | intf => cases q <;> first | rfl | exact absurd rfl hne | exact absurd rfl (hints.resolve_left (absurd rfl)).2.2
  | ints => rfl

end Sys2Proof.Machine
end

section
/-! PROOFS. What an operation leaves unchanged, in every turn and from wherever its sequencer stands: all but
the registers it writes (41_config_setters.md R110, 44_interrupt_ops.md R177, 20_memory.md R44). -/

namespace Sys2Proof.Machine

open Sys2Proof

/-- The channel whose register it is. -/
def Reg.channel : Reg → Option ChannelId
  | .csr c => some c
  | .div c => some c
  | .ctr c => some c
  | .cc c => some c
  | .top c => some c
  | .en => none
  | .intr => none
  | .inte => none
  | .intf => none
  | .ints => none

/-- A write of the register can change the channel: it is the channel's own, or `EN`. -/
def Reg.Touches (r : Reg) (c : ChannelId) : Prop := r = .en ∨ r.channel = some c

theorem chan_regWrite_of_not_touches {s : State} {r : Reg} {c : ChannelId} (h : ¬r.Touches c) (v : Word) :
    (s.regWrite r v).chan c = s.chan c := by
  have hset (d : ChannelId) (ch : Channel) (hd : d ≠ c) : (s.setChan d ch).chan c = s.chan c :=
    State.chan_setChan_ne s ch hd.symm
  cases r with
  | csr d | div d | ctr d | cc d | top d => exact hset d _ fun hd => h (.inr (congrArg some hd))
  | en => exact absurd (.inl rfl) h
  | intr | inte | intf | ints => rfl

/-- A write of any register but a counter changes of a channel only its configuration. -/
theorem onlyConfiguration_regWrite {s : State} {r : Reg} {c : ChannelId} (h : r ≠ .ctr c) (v : Word) :
    OnlyConfiguration (s.chan c) ((s.regWrite r v).chan c) := by
  have hset (d : ChannelId) (ch : Channel) (hd : OnlyConfiguration (s.chan d) ch) :
      OnlyConfiguration (s.chan c) ((s.setChan d ch).chan c) := by
    rw [State.chan_setChan]
    split
    · next hdc => exact hdc ▸ hd
    · exact .refl _
  cases r with
  | csr d => exact hset d _ (onlyConfiguration_writeCsr _ v)
  | div d => exact hset d _ (onlyConfiguration_writeDiv _ v)
  | cc d => exact hset d _ (onlyConfiguration_writeCc _ v)
  | top d => exact hset d _ (onlyConfiguration_writeTop _ v)
  | ctr d =>
    have hd : c ≠ d := fun hd => h (congrArg Reg.ctr hd.symm)
    rw [State.regWrite, State.chan_setChan_ne s _ hd]
    exact .refl _
  | en => rw [State.regWrite, State.chan_writeEnables]; rfl
  | intr | inte | intf | ints => exact .refl _

/-- `u` follows `s` by writes of operation `i`: what `i` writes no register of is unchanged. -/
structure WritesOf (i : Instr) (s u : State) : Prop where
  chan    : ∀ c, (∀ r, writesReg i r = true → ¬r.Touches c) → u.chan c = s.chan c
  config  : ∀ c, writesReg i (.ctr c) = false → OnlyConfiguration (s.chan c) (u.chan c)
  counter : ∀ c, (∀ r, writesReg i r = true → r = .ctr c) →
    u.chan c = { s.chan c with ctr := (u.chan c).ctr }
  intr    : writesReg i .intr = false → u.intr = s.intr
  inte    : writesReg i .inte = false → u.inte = s.inte
  intf    : writesReg i .intf = false → u.intf = s.intf
  handler : (∀ x, i ≠ .setHandler x) → u.handler = s.handler

namespace WritesOf

variable {i : Instr} {s u : State}

theorem refl (i : Instr) (s : State) : WritesOf i s s :=
  ⟨fun _ _ => rfl, fun _ _ => .refl _, fun _ _ => rfl, fun _ => rfl, fun _ => rfl, fun _ => rfl,
    fun _ => rfl⟩

theorem regWrite (h : WritesOf i s u) {r : Reg} (hr : writesReg i r = true) (v : Word) :
    WritesOf i s (u.regWrite r v) := by
  have hne {q : Reg} (hq : writesReg i q = false) : r ≠ q := fun he => by
    rw [he, hq] at hr
    cases hr
  refine ⟨fun c hc => ?_, fun c hc => ?_, fun c hc => ?_, fun hi => ?_, fun hi => ?_, fun hi => ?_,
    fun hx => ?_⟩
  · rw [chan_regWrite_of_not_touches (hc r hr), h.chan c hc]
  · exact (h.config c hc).trans (onlyConfiguration_regWrite (hne hc) v)
  · rw [hc r hr, State.regWrite, State.chan_setChan_same, Channel.writeCtr, h.counter c hc]
  · rw [← h.intr hi]; cases r <;> first | rfl | exact absurd rfl (hne hi)
  · rw [← h.inte hi]; cases r <;> first | rfl | exact absurd rfl (hne hi)
  · rw [← h.intf hi]; cases r <;> first | rfl | exact absurd rfl (hne hi)
  · rw [State.regWrite_handler, h.handler hx]

theorem setHandler (h : WritesOf i s u) {x : Handle} (hx : i = .setHandler x) :
    WritesOf i s { u with handler := some x } :=
  ⟨h.chan, h.config, h.counter, h.intr, h.inte, h.intf, fun hn => absurd hx (hn x)⟩

end WritesOf

/-- What a turn of an operation leaves unchanged around the registers, in every turn. -/
def KeepsOutside (s t : State) : Prop :=
  t.firedLog = s.firedLog ∧ t.sysClkHz = s.sysClkHz ∧ t.port = s.port ∧ t.schedule = s.schedule

/-- The frame of every operation but `handle_interrupt`, in every turn. -/
theorem exec_frame {i : Instr} {s t : State} (h : exec i s = .next t) (hi : i ≠ .handleInterrupt) :
    WritesOf i s t ∧ KeepsOutside s t := by
  obtain rfl | ⟨u, hsame, hu, hend⟩ := exec_ends h hi (R := WritesOf i s) (.refl i s)
    (fun u r v hr hu => hu.regWrite hr v) (fun u x hx hu => hu.setHandler hx)
  · exact ⟨.refl i t, rfl, rfl, rfl, rfl⟩
  · obtain ⟨⟨hchan, hintr, hinte, hintf⟩, hhandler, hclk, hport, hsched, -, -, -, -, -, hfired⟩ :=
      hend.keeps
    refine ⟨⟨fun c hc => ?_, fun c hc => ?_, fun c hc => ?_, fun hi => ?_, fun hi => ?_, fun hi => ?_,
      fun hx => ?_⟩, ?_, ?_, ?_, ?_⟩
    · rw [hchan, hu.chan c hc]
    · rw [hchan]; exact hu.config c hc
    · rw [hchan]; exact hu.counter c hc
    · rw [hintr, hu.intr hi]
    · rw [hinte, hu.inte hi]
    · rw [hintf, hu.intf hi]
    · rw [hhandler, hu.handler hx]
    · rw [hfired, hsame.firedLog]
    · rw [hclk, hsame.sysClkHz]
    · rw [hport, hsame.port]
    · rw [hsched, hsame.schedule]

/-! ### The statements -/

/-- Settles O31: an operation that observes ends on the state it began with. -/
theorem observingOperationsChangeNoRegister : Obligations.ObservingOperationsChangeNoRegister := by
  intro i s t hi h
  obtain rfl | hend := exec_observes h hi
  · exact ⟨⟨fun _ => rfl, .refl t⟩, rfl, rfl, rfl, rfl, rfl⟩
  · obtain ⟨hbank, hhandler, hclk, hport, hsched, -, -, -, -, -, hfired⟩ := hend.keeps
    exact ⟨hbank, hhandler, hfired, hclk, hport, hsched⟩

theorem channel_of_writesReg {i : Instr} {c : ChannelId} {r : Reg} (hi : writesChannel i = some c)
    (hr : writesReg i r = true) : r.channel = some c := by
  cases i <;> cases hi <;> simp only [writesReg, Bool.or_eq_true, beq_iff_eq] at hr
  case configure | start => obtain ((rfl | rfl) | rfl) | rfl := hr <;> rfl
  all_goals subst hr; rfl

/-- Settles O27: the registers an operation writes are those of the channel it names, and only
`set_counter` writes `CTR`. -/
theorem channelOperationsTouchTheirChannelAlone : Obligations.ChannelOperationsTouchTheirChannelAlone := by
  intro i c s t hi h
  have hreg {r : Reg} (hr : writesReg i r = true) : r.channel = some c := channel_of_writesReg hi hr
  have hno {r : Reg} (hr : r.channel ≠ some c) : writesReg i r = false :=
    Bool.eq_false_iff.2 fun h => hr (hreg h)
  have hne : i ≠ .handleInterrupt := fun h => by rw [h] at hi; cases hi
  have hset (x : Handle) : i ≠ .setHandler x := fun h => by rw [h] at hi; cases hi
  obtain ⟨hframe, hfired, hclk, hport, hsched⟩ := exec_frame h hne
  refine ⟨fun d hd => hframe.chan d fun r hr htouch => ?_,
    ⟨hframe.intr (hno nofun), hframe.inte (hno nofun), hframe.intf (hno nofun)⟩, hframe.handler hset,
    hfired, hclk, hport, hsched, fun hctr => hframe.config c ?_, fun value hctr => hframe.counter c ?_⟩
  · obtain rfl | hrd := htouch
    · cases hreg hr
    · exact hd (Option.some.inj (hrd.symm.trans (hreg hr)))
  · cases i <;> cases hi <;> first | rfl | exact absurd rfl (hctr _)
  · subst hctr
    exact fun r hr => by simpa [writesReg] using hr

/-- Settles O46: each of the five operations writes one interrupt register. -/
theorem interruptBitOperationsTouchOneRegister : Obligations.InterruptBitOperationsTouchOneRegister := by
  intro i c s t hi h
  have hne : i ≠ .handleInterrupt := fun h => by rw [h] at hi; cases hi
  have hset (x : Handle) : i ≠ .setHandler x := fun h => by rw [h] at hi; cases hi
  have htouch (d : ChannelId) (r : Reg) (hr : writesReg i r = true) : ¬r.Touches d := by
    cases i <;> cases hi <;> simp only [writesReg, beq_iff_eq] at hr <;> subst hr <;> simp [Reg.Touches, Reg.channel]
  obtain ⟨hframe, hfired, hclk, hport, hsched⟩ := exec_frame h hne
  refine ⟨fun d => hframe.chan d (htouch d), hframe.handler hset, hfired, hclk, hport, hsched,
    fun h => hframe.intr ?_, fun h h' => hframe.inte ?_, fun h h' => hframe.intf ?_⟩
  all_goals cases i <;> cases hi <;> first | rfl | exact absurd rfl h | exact absurd rfl h'

end Sys2Proof.Machine
end

section
/-! PROOFS. A whole turn of the operations that read, compute, or write one register (40_pin_mapping.md,
41_config_setters.md, 43_channel_controller.md, 44_interrupt_ops.md). Each turn is at most one register
write and the response, so its frame is that of the write. -/

namespace Sys2Proof.Machine

open Sys2Proof

/-! ### The frame of a write and a response -/

section Frames

variable {s u : State}

theorem keepsBank_respond (s : State) (a : Answer) : KeepsBank s (s.respond a) :=
  ⟨State.chan_respond s a, keepsInterrupts_respond (.refl s) a⟩

theorem keepsChannels_respond (h : KeepsChannels s u) (a : Answer) : KeepsChannels s (u.respond a) :=
  fun c => (State.chan_respond u a c).trans (h c)

/-- A response with no register written. -/
theorem frame_respond (s : State) (a : Answer) :
    Finished s (s.respond a) a ∧ KeepsBank s (s.respond a) ∧ KeepsSurroundings s (s.respond a) :=
  ⟨finished_respond a rfl rfl, keepsBank_respond s a, keepsSurroundings_respond (.refl s) a⟩

/-- A response after a register write. -/
theorem frame_regWrite_respond (s : State) (r : Reg) (v : Word) (a : Answer) :
    Finished s ((s.regWrite r v).respond a) a ∧ KeepsSurroundings s ((s.regWrite r v).respond a) :=
  ⟨finished_respond a (by simp) (by simp), keepsSurroundings_respond (keepsSurroundings_regWrite s r v) a⟩

/-- `t` follows `s` with channel `c` alone replaced and the response `OK`. -/
def SetsChannel (c : ChannelId) (ch : Channel) (s t : State) : Prop :=
  t.chan c = ch ∧ KeepsOtherChannels c s t ∧ KeepsInterrupts s t ∧ KeepsSurroundings s t ∧
    Finished s t (.ok 0)

theorem setsChannel_respond (s : State) (c : ChannelId) (ch : Channel) :
    SetsChannel c ch s ((s.setChan c ch).respond (.ok 0)) := by
  obtain ⟨hother, hintr⟩ := keeps_setChan s c ch
  refine ⟨by simp, keepsOtherChannels_respond hother _, keepsInterrupts_respond hintr _,
    keepsSurroundings_respond ?_ _, finished_respond _ rfl rfl⟩
  simp [KeepsSurroundings]

end Frames

/-! ### `map_pin`, `pin_of` -/

theorem exec_mapPin {pin : BitVec 8} {s : State} (hs : s.Accepts) (hq : 1 ≤ s.quantum) :
    exec (.mapPin pin) s = .next
      (s.respond (.ok (BitVec.ofNat 48 ((channelOf pin).val + (subPinOf pin).toNat * 2 ^ 8)))) := by
  rw [exec_of_bodyOf rfl, runOp_pureBody hs hq]

theorem exec_pinOf {c : ChannelId} {sp : SubPin} {s : State} (hs : s.Accepts) (hq : 1 ≤ s.quantum) :
    exec (.pinOf c sp) s = .next (s.respond (.ok (BitVec.ofNat 48 (pinOrdinal c sp)))) := by
  rw [exec_of_bodyOf rfl, runOp_pureBody hs hq]

theorem channelOf_val (pin : BitVec 8) : (channelOf pin).val = pin.toNat / 2 % 8 := rfl

theorem subPinOf_toNat (pin : BitVec 8) : (subPinOf pin).toNat = pin.toNat % 2 := by
  unfold subPinOf
  obtain h | h := Nat.mod_two_eq_zero_or_one pin.toNat <;> rw [h] <;> rfl

theorem subPin_toNat_injective {a b : SubPin} (h : a.toNat = b.toNat) : a = b := by
  cases a <;> cases b <;> first | rfl | cases h

theorem subPin_toNat_lt_two (sp : SubPin) : sp.toNat < 2 := by cases sp <;> decide

theorem pinOrdinal_lt (c : ChannelId) (sp : SubPin) : pinOrdinal c sp < 2 ^ 8 := by
  have := c.isLt
  have := subPin_toNat_lt_two sp
  simp only [pinOrdinal]
  omega

/-- Settles O20. -/
theorem mapPinAnswersChannelAndSubPin : Obligations.MapPinAnswersChannelAndSubPin := by
  intro pin s hs hq
  have hvalue : (channelOf pin).val + (subPinOf pin).toNat * 2 ^ 8 =
      pin.toNat / 2 % 8 + 256 * (pin.toNat % 2) := by
    rw [channelOf_val, subPinOf_toNat]
    omega
  refine ⟨_, exec_mapPin hs hq, ?_⟩
  rw [hvalue]
  exact frame_respond s _

/-- Settles O21: the ordinal of the pair is below 16, and a pin of the pair is it or lies above it by a
multiple of 16. -/
theorem pinOfAnswersTheLowestPin : Obligations.PinOfAnswersTheLowestPin := by
  intro c sp s hs hq
  have hc := c.isLt
  have hsp := subPin_toNat_lt_two sp
  have hp : (BitVec.ofNat 8 (pinOrdinal c sp)).toNat = 2 * c.val + sp.toNat :=
    toNat_ofNat_of_lt (pinOrdinal_lt c sp)
  have hwide : (BitVec.ofNat 8 (pinOrdinal c sp)).setWidth 48 = BitVec.ofNat 48 (pinOrdinal c sp) := by
    apply BitVec.eq_of_toNat_eq
    rw [BitVec.toNat_setWidth, hp, BitVec.toNat_ofNat, pinOrdinal]
  obtain ⟨hfin, hbank, haround⟩ := frame_respond s (.ok (BitVec.ofNat 48 (pinOrdinal c sp)))
  refine ⟨_, BitVec.ofNat 8 (pinOrdinal c sp), exec_pinOf hs hq, hwide ▸ hfin, ?_, ?_, ?_,
    fun q hqc hqs => ?_, hbank, haround⟩
  · rw [hp]; cases sp <;> rfl
  · apply Fin.ext
    rw [channelOf_val, hp]
    omega
  · apply subPin_toNat_injective
    rw [subPinOf_toNat, hp]
    omega
  · rw [hp, ← hqc, ← hqs, channelOf_val, subPinOf_toNat]
    omega

/-! ### The setters of one register of a channel -/

section Setters

variable {i : Instr} {c : ChannelId} {s : State} (hs : s.Accepts)
include hs

/-- A read-modify-write of `CSR`. -/
theorem exec_rmw_csr {f : Word → Word} (hb : bodyOf i = some (rmwBody (.csr c) f)) (hq : 2 ≤ s.quantum) :
    ∃ t, exec i s = .next t ∧
      SetsChannel c ((s.chan c).writeCsr (f ((s.chan c).csr.setWidth 32))) s t :=
  ⟨_, by rw [exec_of_bodyOf hb, runOp_rmwBody hs hq]; rfl, setsChannel_respond s c _⟩

/-- A read-modify-write of `CC`. -/
theorem exec_rmw_cc {f : Word → Word} (hb : bodyOf i = some (rmwBody (.cc c) f)) (hq : 2 ≤ s.quantum) :
    ∃ t, exec i s = .next t ∧ SetsChannel c ((s.chan c).writeCc (f (s.chan c).cc)) s t :=
  ⟨_, by rw [exec_of_bodyOf hb, runOp_rmwBody hs hq]; rfl, setsChannel_respond s c _⟩

theorem exec_setTop {value : BitVec 16} (hq : 1 ≤ s.quantum) :
    ∃ t, exec (.setTop c value) s = .next t ∧
      SetsChannel c ((s.chan c).writeTop (value.setWidth 32)) s t :=
  ⟨_, by rw [exec_of_bodyOf rfl, runOp_writeBody hs hq]; rfl, setsChannel_respond s c _⟩

theorem exec_setCounter {value : BitVec 16} (hq : 1 ≤ s.quantum) :
    ∃ t, exec (.setCounter c value) s = .next t ∧
      SetsChannel c ((s.chan c).writeCtr (value.setWidth 32)) s t :=
  ⟨_, by rw [exec_of_bodyOf rfl, runOp_writeBody hs hq]; rfl, setsChannel_respond s c _⟩

end Setters

theorem setWidth_word_value16 (value : BitVec 16) : (value.setWidth 32).setWidth 16 = value := by
  rw [BitVec.setWidth_setWidth_of_le _ (by decide), BitVec.setWidth_eq]

/-- Settles O23: what each write of `CSR` stores, bit by bit. -/
theorem controlSettersWriteTheirField : Obligations.ControlSettersWriteTheirField := by
  intro c s hs hq
  refine ⟨fun en => ?_, fun ph => ?_, fun invA invB => ?_, fun mode => ?_⟩
  · obtain ⟨t, he, hchan, hframe⟩ := exec_rmw_csr hs (i := .setEnabled c en) rfl hq
    have hbit (k : Nat) := hchan ▸ csrWithEnable_getLsbD (s.chan c) en k
    exact ⟨t, he, hbit 0, fun k hk => (hbit k).trans (if_neg hk), hchan ▸ onlyCsr_writeCsr _ _, hframe⟩
  · obtain ⟨t, he, hchan, hframe⟩ := exec_rmw_csr hs (i := .setPhCorrect c ph) rfl hq
    have hbit (k : Nat) := hchan ▸ csrWithPhCorrect_getLsbD (s.chan c) ph k
    exact ⟨t, he, hbit 1, fun k hk => (hbit k).trans (if_neg hk), hchan ▸ onlyCsr_writeCsr _ _, hframe⟩
  · obtain ⟨t, he, hchan, hframe⟩ := exec_rmw_csr hs (i := .setInvert c invA invB) rfl hq
    have hbit (k : Nat) := hchan ▸ csrWithInvert_getLsbD (s.chan c) invA invB k
    exact ⟨t, he, hbit 2, hbit 3, fun k h2 h3 => by rw [hbit, if_neg h2, if_neg h3],
      hchan ▸ onlyCsr_writeCsr _ _, hframe⟩
  · obtain ⟨t, he, hchan, hframe⟩ := exec_rmw_csr hs (i := .setDivMode c mode) rfl hq
    have hbit (k : Nat) := hchan ▸ csrWithDivMode_getLsbD (s.chan c) mode k
    exact ⟨t, he, divMode_eq (hbit 4) (hbit 5), fun k h4 h5 => by rw [hbit, if_neg h4, if_neg h5],
      hchan ▸ onlyCsr_writeCsr _ _, hframe⟩

/-- Settles O25. -/
theorem compareAndTopSettersWriteTheirValue : Obligations.CompareAndTopSettersWriteTheirValue := by
  intro c value s hs hq
  refine ⟨?_, ?_, ?_⟩
  · obtain ⟨t, he, hchan, hframe⟩ := exec_rmw_cc hs (i := .setCompareA c value) rfl hq
    obtain ⟨hA, hB⟩ := ccWithA_fields (s.chan c) value
    exact ⟨t, he, hchan ▸ hA, hchan ▸ hB, hchan ▸ onlyCc_writeCc _ _, hframe⟩
  · obtain ⟨t, he, hchan, hframe⟩ := exec_rmw_cc hs (i := .setCompareB c value) rfl hq
    obtain ⟨hB, hA⟩ := ccWithB_fields (s.chan c) value
    exact ⟨t, he, hchan ▸ hB, hchan ▸ hA, hchan ▸ onlyCc_writeCc _ _, hframe⟩
  · obtain ⟨t, he, hchan, hframe⟩ := exec_setTop hs (c := c) (value := value) (by omega)
    exact ⟨t, he, by rw [hchan]; exact setWidth_word_value16 value, hchan ▸ onlyTop_writeTop _ _, hframe⟩

/-- Settles O40. -/
theorem counterIsReadAndWrittenRaw : Obligations.CounterIsReadAndWrittenRaw := by
  intro c s hs hq
  refine ⟨?_, fun value => ?_⟩
  · have hvalue : ((s.regRead (.ctr c)).setWidth 16).setWidth 48 = (s.chan c).ctr.setWidth 48 :=
      congrArg (BitVec.setWidth 48) (setWidth_word_value16 (s.chan c).ctr)
    refine ⟨_, by rw [exec_of_bodyOf rfl, runOp_readBody hs hq], ?_⟩
    rw [hvalue]
    exact frame_respond s _
  · obtain ⟨t, he, hchan, hother, hintr, haround, hfin⟩ := exec_setCounter hs (c := c) (value := value) hq
    exact ⟨t, he, hfin, by rw [hchan, Channel.writeCtr, setWidth_word_value16], hother, hintr, haround⟩

/-! ### `read_reg` -/

/-- Settles O42: a register is found at its offset and at no other. -/
theorem readRegAnswersTheRegister : Obligations.ReadRegAnswersTheRegister := by
  intro offset s hs hq
  obtain ⟨n, hn⟩ := Nat.exists_eq_add_of_le' hq
  refine ⟨fun r hr => ?_, fun hr => ?_⟩
  · have hread : s.memRead offset.toNat = some (s.regRead r) := by
      rw [State.memRead, ← hr, regAt_offset]; rfl
    have hbody : readRegBody offset 1 Tmp.zero s = .next (2, { Tmp.zero with word := s.regRead r }) s := by
      simp only [readRegBody, hread]
    refine ⟨_, ?_, frame_respond s _⟩
    rw [exec_of_bodyOf rfl, runOp_of_accepts hs, hn, runMicros_next_succ hbody]
    exact congrArg _ (runMicros_done rfl)
  · have hread : s.memRead offset.toNat = none := by
      rw [State.memRead, Option.map_eq_none_iff]
      cases hreg : regAt offset.toNat with
      | none => rfl
      | some r => exact absurd (offset_of_regAt hreg) (hr r)
    have hbody : readRegBody offset 1 Tmp.zero s = .done (s.raise .illegalCommand) := by
      simp only [readRegBody, hread, fail]
    refine ⟨_, by rw [exec_of_bodyOf rfl, runOp_of_accepts hs, runMicros_done hbody], by simp,
      ⟨State.chan_raise s _, by simp [KeepsInterrupts]⟩, by simp⟩

/-! ### The interrupt registers -/

section Interrupts

variable {s : State}

theorem pending_eq (s : State) (c : ChannelId) :
    s.pending c = ((s.intr.getLsbD c.val && s.inte.getLsbD c.val) || s.intf.getLsbD c.val) := by
  rw [State.pending, State.ints, intStatus, BitVec.getLsbD_or, BitVec.getLsbD_and]

theorem irq_of_pending {c : ChannelId} (h : s.pending c = true) : s.irq = true := by
  rw [State.irq, bne_iff_ne]
  intro h0
  rw [State.pending, h0] at h
  simp at h

theorem setBit_getLsbD (x : BitVec 8) (c d : ChannelId) :
    ((wideWithBits (x.setWidth 32) (channelBit c)).setWidth 8).getLsbD d.val =
      (d == c || x.getLsbD d.val) := by
  rw [wideWithBits_getLsbD, channelBit_getLsbD, Bool.or_comm]

theorem clearBit_getLsbD (x : BitVec 8) (c d : ChannelId) :
    ((wideWithoutBits (x.setWidth 32) (channelBit c)).setWidth 8).getLsbD d.val =
      (d != c && x.getLsbD d.val) := by
  rw [wideWithoutBits_getLsbD, channelBit_getLsbD, Bool.and_comm, bne]

variable (hs : s.Accepts)
include hs

/-- A read-modify-write of a peripheral-wide register. -/
theorem exec_rmw_wide {i : Instr} {r : Reg} {f : Word → Word} (hb : bodyOf i = some (rmwBody r f))
    (hq : 2 ≤ s.quantum) : exec i s = .next ((s.regWrite r (f (s.regRead r))).respond (.ok 0)) := by
  rw [exec_of_bodyOf hb, runOp_rmwBody hs hq]

theorem exec_clearInterrupt {c : ChannelId} (hq : 1 ≤ s.quantum) :
    exec (.clearInterrupt c) s =
      .next ((s.regWrite .intr ((channelBit c).setWidth 32)).respond (.ok 0)) := by
  rw [exec_of_bodyOf rfl, runOp_writeBody hs hq]

end Interrupts

/-- Settles O43. -/
theorem enableAndDisableWriteOneMaskBit : Obligations.EnableAndDisableWriteOneMaskBit := by
  intro c s hs hq
  refine ⟨?_, ?_⟩
  · obtain ⟨hfin, haround⟩ := frame_regWrite_respond s .inte
      (wideWithBits (s.regRead .inte) (channelBit c)) (.ok 0)
    have hbit (d : ChannelId) := setBit_getLsbD s.inte c d
    refine ⟨_, exec_rmw_wide hs (i := .enableInterrupt c) rfl hq, hfin, fun d => ?_,
      State.respond_intr _ _, State.respond_intf _ _, keepsChannels_respond (fun _ => rfl) _, haround,
      fun hlatch => ?_⟩
    · rw [State.respond_inte]
      exact hbit d
    · have hmask : (s.regWrite .inte (wideWithBits (s.regRead .inte) (channelBit c))).inte.getLsbD c.val =
          true := (hbit c).trans (by rw [beq_self_eq_true, Bool.true_or])
      have hintr : (s.regWrite .inte (wideWithBits (s.regRead .inte) (channelBit c))).intr = s.intr := rfl
      rw [pending_respond, pending_eq, hmask, hintr, hlatch]
      rfl
  · obtain ⟨hfin, haround⟩ := frame_regWrite_respond s .inte
      (wideWithoutBits (s.regRead .inte) (channelBit c)) (.ok 0)
    have hbit (d : ChannelId) := clearBit_getLsbD s.inte c d
    refine ⟨_, exec_rmw_wide hs (i := .disableInterrupt c) rfl hq, hfin, fun d => ?_,
      State.respond_intr _ _, State.respond_intf _ _, keepsChannels_respond (fun _ => rfl) _, haround, ?_⟩
    · rw [State.respond_inte]
      exact hbit d
    · have hmask : (s.regWrite .inte (wideWithoutBits (s.regRead .inte) (channelBit c))).inte.getLsbD c.val =
          false := (hbit c).trans (by rw [bne_self_eq_false, Bool.false_and])
      rw [pending_respond, pending_eq, hmask, Bool.and_false, Bool.false_or]
      rfl

/-- Settles O44. -/
theorem forceAndUnforceWriteOneForcedBit : Obligations.ForceAndUnforceWriteOneForcedBit := by
  intro c s hs hq
  refine ⟨?_, ?_⟩
  · obtain ⟨hfin, haround⟩ := frame_regWrite_respond s .intf
      (wideWithBits (s.regRead .intf) (channelBit c)) (.ok 0)
    have hpending := (pending_respond _ (.ok 0) c).trans (pending_forced s c)
    refine ⟨_, exec_rmw_wide hs (i := .forceInterrupt c) rfl hq, hfin, fun d => ?_,
      State.respond_intr _ _, State.respond_inte _ _, keepsChannels_respond (fun _ => rfl) _, haround,
      hpending, irq_of_pending hpending⟩
    rw [State.respond_intf]
    exact setBit_getLsbD s.intf c d
  · obtain ⟨hfin, haround⟩ := frame_regWrite_respond s .intf
      (wideWithoutBits (s.regRead .intf) (channelBit c)) (.ok 0)
    have hbit (d : ChannelId) := clearBit_getLsbD s.intf c d
    refine ⟨_, exec_rmw_wide hs (i := .unforceInterrupt c) rfl hq, hfin, fun d => ?_,
      State.respond_intr _ _, State.respond_inte _ _, keepsChannels_respond (fun _ => rfl) _, haround, ?_⟩
    · rw [State.respond_intf]
      exact hbit d
    · have hforced : (s.regWrite .intf (wideWithoutBits (s.regRead .intf) (channelBit c))).intf.getLsbD
          c.val = false := (hbit c).trans (by rw [bne_self_eq_false, Bool.false_and])
      rw [pending_respond, pending_eq, hforced, Bool.or_false]
      rfl

/-- A write of a channel's bit of the clear register clears that latch. -/
theorem clearLatch_getLsbD (s : State) (c d : ChannelId) :
    (s.regWrite .intr ((channelBit c).setWidth 32)).intr.getLsbD d.val =
      (d != c && s.intr.getLsbD d.val) := by
  rw [bne, ← channelBit_getLsbD]
  simp [State.regWrite, Bool.and_comm]

/-- Settles O45. -/
theorem clearInterruptClearsOneLatch : Obligations.ClearInterruptClearsOneLatch := by
  intro c s hs hq
  obtain ⟨hfin, haround⟩ := frame_regWrite_respond s .intr ((channelBit c).setWidth 32) (.ok 0)
  refine ⟨_, exec_clearInterrupt hs hq, hfin, fun d => ?_, State.respond_inte _ _,
    State.respond_intf _ _, keepsChannels_respond (fun _ => rfl) _, haround, ?_⟩
  · rw [State.respond_intr]
    exact clearLatch_getLsbD s c d
  · rw [pending_respond, pending_eq, clearLatch_getLsbD, bne_self_eq_false, Bool.false_and,
      Bool.false_and, Bool.false_or]
    rfl

/-! ### `set_handler`, `get_int_status` -/

theorem exec_setHandler {s : State} (hs : s.Accepts) (hq : 1 ≤ s.quantum) (h : Handle) :
    exec (.setHandler h) s = .next (({ s with handler := some h } : State).respond (.ok 0)) := by
  have hrun (n : Nat) : runMicros (suspendOp (.setHandler h)) (fun p s => setHandlerBody h p.1 p.2 s)
      (n + 1) (1, Tmp.zero) s = ({ s with handler := some h } : State).respond (.ok 0) := by
    cases n <;> rfl
  have hturn := hrun (s.quantum - 1)
  rw [Nat.sub_add_cancel hq] at hturn
  rw [exec_of_bodyOf rfl, runOp_of_accepts hs, hturn]

/-- Settles O47. -/
theorem handlerIsSetAndStatusIsRead : Obligations.HandlerIsSetAndStatusIsRead := by
  intro s hs hq
  refine ⟨fun h => ?_, ?_⟩
  · obtain ⟨hfin, hbank, haround⟩ := frame_respond { s with handler := some h } (.ok 0)
    exact ⟨_, exec_setHandler hs hq h, hfin, hbank, State.respond_handler _ _, haround⟩
  · have hvalue : ((s.regRead .ints).setWidth 8).setWidth 48 =
        ((s.intr &&& s.inte) ||| s.intf).setWidth 48 := by
      simp [State.regRead, State.ints, intStatus]
    refine ⟨_, by rw [exec_of_bodyOf rfl, runOp_readBody hs hq], ?_⟩
    rw [hvalue]
    exact frame_respond s _

/-! ### `mask_enable`, in one turn -/

/-- The word that `mask_enable` writes has the bits read and those of the mask. -/
theorem wideWithBits_word_getLsbD (t : Word) (mask : BitVec 8) (c : ChannelId) :
    (wideWithBits t mask).getLsbD c.val = (t.getLsbD c.val || mask.getLsbD c.val) := by
  have hc : c.val < 32 := by omega
  simp [wideWithBits, hc, c.isLt]

theorem regRead_en_getLsbD (s : State) (c : ChannelId) :
    (s.regRead .en).getLsbD c.val = (s.chan c).en := by
  have hc : c.val < 32 := by omega
  rw [State.regRead, BitVec.getLsbD_setWidth, enables_getLsbD, decide_eq_true hc, Bool.true_and]

end Sys2Proof.Machine
end

section
/-! PROOFS. Operations from inside, in turns of one micro-step (10_state.md R22, 20_memory.md R46): such a turn
does one micro-step of the body and stores the place it leads to. -/

namespace Sys2Proof.Machine

open Sys2Proof

/-! ### A turn of one micro-step -/

section Micro

variable {i : Instr} {body : OpBody} {k j : Nat} {tmp tmp' : Tmp} {s u : State}

theorem exec_micro_next (hb : bodyOf i = some body) (hs : s.StandsAt i k tmp)
    (hm : body k tmp s = .next (j, tmp') u) : exec i s = comesTo i j tmp' u := by
  obtain ⟨-, hq, hseq⟩ := hs
  rw [exec_of_bodyOf hb, runOp_of_inside hseq, hq]
  exact congrArg _ (runMicros_next_zero (p := (k, tmp)) (body := fun p s => body p.1 p.2 s) hm)

theorem exec_micro_done (hb : bodyOf i = some body) (hs : s.StandsAt i k tmp)
    (hm : body k tmp s = .done u) : exec i s = .next u := by
  obtain ⟨-, hq, hseq⟩ := hs
  rw [exec_of_bodyOf hb, runOp_of_inside hseq, hq]
  exact congrArg _ (runMicros_done hm)

/-- The accepting turn runs micro-step 1 (notes/assumptions/16.md). -/
theorem exec_micro_accepts (hb : bodyOf i = some body) (hs : s.Accepts) (hq : s.quantum = 0)
    (hm : body 1 Tmp.zero s = .next (j, tmp') u) : exec i s = comesTo i j tmp' u := by
  rw [exec_of_bodyOf hb, runOp_of_accepts hs, hq]
  exact congrArg _ (runMicros_next_zero (p := (1, Tmp.zero)) (body := fun p s => body p.1 p.2 s) hm)

end Micro

/-! ### The words written, as the rules write them -/

theorem csrWithPhCorrect_eq (t : Word) (ph : Bool) :
    csrWithPhCorrect t ph = (t &&& ~~~0x02#32) ||| (if ph then 0x02#32 else 0) := by cases ph <;> rfl

theorem csrWithEnable_eq (t : Word) (en : Bool) :
    csrWithEnable t en = (t &&& ~~~0x01#32) ||| (if en then 0x01#32 else 0) := by cases en <;> rfl

theorem csrWithInvert_eq (t : Word) (invA invB : Bool) :
    csrWithInvert t invA invB = (t &&& ~~~0x0C#32) |||
      ((if invA then 0x04#32 else 0) ||| (if invB then 0x08#32 else 0)) := by
  rw [csrWithInvert, BitVec.or_assoc]
  cases invA <;> cases invB <;> rfl

theorem csrWithDivMode_eq (t : Word) (mode : DivMode) :
    csrWithDivMode t mode = (t &&& ~~~0x30#32) ||| BitVec.ofNat 32 (16 * mode.toNat) := by
  cases mode <;> rfl

/-- A write of a peripheral-wide register looks at the eight low bits of the word. -/
theorem regWrite_inte_congr (s : State) {v w : Word} (h : v.setWidth 8 = w.setWidth 8) :
    s.regWrite .inte v = s.regWrite .inte w := by simp only [State.regWrite, h]

theorem regWrite_intf_congr (s : State) {v w : Word} (h : v.setWidth 8 = w.setWidth 8) :
    s.regWrite .intf v = s.regWrite .intf w := by simp only [State.regWrite, h]

theorem regWrite_en_congr (s : State) {v w : Word} (h : v.setWidth 8 = w.setWidth 8) :
    s.regWrite .en v = s.regWrite .en w := by
  have hbit (c : Fin 8) : v.getLsbD c.val = w.getLsbD c.val := by
    have := congrArg (fun x : BitVec 8 => x.getLsbD c.val) h
    simpa using this
  simp only [State.regWrite, State.writeEnables, hbit]

theorem channelBit_eq_setWidth (c : ChannelId) : channelBit c = (1#32 <<< c.val).setWidth 8 := by
  revert c; decide

/-- Bits set by a mask, as the rule of a read-modify-write puts it. -/
theorem wideWithBits_setWidth (t m : Word) {mask : BitVec 8} (hm : mask = m.setWidth 8) :
    (wideWithBits t mask).setWidth 8 = ((t &&& ~~~m) ||| (m &&& m)).setWidth 8 := by
  subst hm
  ext k hk
  have hk' : k < 32 := by omega
  simp only [wideWithBits, BitVec.getElem_setWidth, BitVec.getLsbD_setWidth, BitVec.getLsbD_or,
    BitVec.getLsbD_and, BitVec.getLsbD_not, hk, hk', decide_true, Bool.true_and]
  cases t.getLsbD k <;> cases m.getLsbD k <;> rfl

theorem wideWithoutBits_setWidth (t m : Word) {mask : BitVec 8} (hm : mask = m.setWidth 8) :
    (wideWithoutBits t mask).setWidth 8 = ((t &&& ~~~m) ||| (0#32 &&& m)).setWidth 8 := by
  subst hm
  ext k hk
  have hk' : k < 32 := by omega
  simp only [wideWithoutBits, BitVec.zero_and, BitVec.or_zero, BitVec.getElem_setWidth,
    BitVec.getLsbD_setWidth, BitVec.getLsbD_and, BitVec.getLsbD_not, hk, hk', decide_true, Bool.true_and]

theorem ccWithA_eq (t : Word) (value : BitVec 16) :
    ccWithA t value = (t &&& ~~~0x0000FFFF#32) ||| (value.setWidth 32 &&& 0x0000FFFF#32) := by
  have hlow : value.setWidth 32 &&& 0x0000FFFF#32 = value.setWidth 32 :=
    (setWidth_setWidth_word (value.setWidth 32) (n := 16) (by decide)).symm.trans
      (congrArg (BitVec.setWidth 32) (setWidth_word_value16 value))
  rw [ccWithA, hlow]
  rfl

theorem ccWithB_eq (t : Word) (value : BitVec 16) :
    ccWithB t value = (t &&& ~~~0xFFFF0000#32) ||| ((value ++ 0#16 : Word) &&& 0xFFFF0000#32) := by
  have hhigh : value.setWidth 32 <<< 16 = (value ++ 0#16 : Word) &&& 0xFFFF0000#32 := by
    apply BitVec.eq_of_getLsbD_eq
    intro k hk
    rw [BitVec.getLsbD_and, BitVec.getLsbD_append]
    interval_cases k <;> simp
  rw [ccWithB, hhigh]
  rfl

/-- The eleven operations that are one read-modify-write have its body, and write the word of R46. -/
theorem rmwOf_body {i : Instr} {r : Reg} {mask val : Word} (h : rmwOf i = some (r, mask, val)) :
    ∃ f, bodyOf i = some (rmwBody r f) ∧
      ∀ (s : State) (t : Word), s.regWrite r (f t) = s.regWrite r ((t &&& ~~~mask) ||| (val &&& mask)) := by
  cases i <;> cases h
  case setEnabled c en =>
    refine ⟨_, rfl, fun s t => congrArg _ ?_⟩
    rw [csrWithEnable_eq]
    cases en <;> rfl
  case setPhCorrect c ph =>
    refine ⟨_, rfl, fun s t => congrArg _ ?_⟩
    rw [csrWithPhCorrect_eq]
    cases ph <;> rfl
  case setInvert c invA invB =>
    refine ⟨_, rfl, fun s t => congrArg _ ?_⟩
    rw [csrWithInvert_eq]
    cases invA <;> cases invB <;> rfl
  case setDivMode c mode =>
    refine ⟨_, rfl, fun s t => congrArg _ ?_⟩
    rw [csrWithDivMode_eq]
    cases mode <;> rfl
  case setCompareA c value => exact ⟨_, rfl, fun s t => congrArg _ (ccWithA_eq t value)⟩
  case setCompareB c value => exact ⟨_, rfl, fun s t => congrArg _ (ccWithB_eq t value)⟩
  case maskEnable m =>
    exact ⟨_, rfl, fun s t => regWrite_en_congr s (wideWithBits_setWidth t _ (by simp))⟩
  case enableInterrupt c =>
    exact ⟨_, rfl, fun s t =>
      regWrite_inte_congr s (wideWithBits_setWidth t _ (channelBit_eq_setWidth c))⟩
  case disableInterrupt c =>
    exact ⟨_, rfl, fun s t =>
      regWrite_inte_congr s (wideWithoutBits_setWidth t _ (channelBit_eq_setWidth c))⟩
  case forceInterrupt c =>
    exact ⟨_, rfl, fun s t =>
      regWrite_intf_congr s (wideWithBits_setWidth t _ (channelBit_eq_setWidth c))⟩
  case unforceInterrupt c =>
    exact ⟨_, rfl, fun s t =>
      regWrite_intf_congr s (wideWithoutBits_setWidth t _ (channelBit_eq_setWidth c))⟩

/-! ### The statements -/

/-- Settles O19: the micro-steps of a read-modify-write, and the steps of `stop`. -/
theorem readModifyWriteIsTwoMicroSteps : Obligations.ReadModifyWriteIsTwoMicroSteps := by
  refine ⟨fun i r mask val s hi hq => ?_, fun pin s => ⟨fun hs hq => ?_, fun k tmp hs => ⟨?_, ?_, ?_⟩⟩⟩
  · obtain ⟨f, hb, hf⟩ := rmwOf_body hi
    refine ⟨fun hs => exec_micro_accepts hb hs hq rfl, fun t hctx hseq => ?_⟩
    rw [← hf]
    exact exec_micro_next hb ⟨hctx, hq, hseq⟩ rfl
  · exact exec_micro_accepts rfl hs hq rfl
  · rintro rfl
    exact exec_micro_next rfl hs rfl
  · rintro rfl
    refine exec_micro_next rfl hs ?_
    rw [← BitVec.or_zero (x := tmp.word &&& _)]
    rfl
  · rintro rfl
    exact exec_micro_done rfl hs rfl

/-- Settles O41. -/
theorem maskEnableEnablesInOneWrite : Obligations.MaskEnableEnablesInOneWrite := by
  intro bitmask s
  refine ⟨fun hs hq => ?_, fun hs hq => ⟨_, rfl, exec_micro_accepts rfl hs hq rfl⟩,
    fun k tmp hs => ⟨?_, ?_⟩⟩
  · obtain ⟨hfin, haround⟩ := frame_regWrite_respond s .en (wideWithBits (s.regRead .en) bitmask) (.ok 0)
    have hchan (c : ChannelId) :
        ((s.regWrite .en (wideWithBits (s.regRead .en) bitmask)).respond (.ok 0)).chan c =
          (s.chan c).withEnable ((s.chan c).en || bitmask.getLsbD c.val) := by
      rw [State.chan_respond, State.regWrite, State.chan_writeEnables, wideWithBits_word_getLsbD,
        regRead_en_getLsbD]
    refine ⟨_, exec_rmw_wide hs (i := .maskEnable bitmask) rfl hq, hfin, fun c => ?_, fun c k hk => ?_,
      fun c => ?_, keepsInterrupts_respond ⟨rfl, rfl, rfl⟩ _, haround⟩
    · rw [hchan, en_withEnable]
    · rw [hchan, withEnable_csr_getLsbD, if_neg hk]
    · rw [hchan]; rfl
  · rintro rfl
    refine ⟨_, rfl, exec_micro_next rfl hs rfl, fun c => ?_⟩
    rw [State.regWrite, State.chan_writeEnables, en_withEnable]
    exact wideWithBits_word_getLsbD tmp.word bitmask c
  · rintro rfl
    exact exec_micro_done rfl hs rfl

end Sys2Proof.Machine
end

section
/-! PROOFS. The planner (42_planner.md). What a plan and a compare value are in natural numbers, and the one
state in which a turn of each planner operation ends. -/

namespace Sys2Proof.Machine

open Sys2Proof

/-! ### Turns with room for a whole operation -/

/-- From place `p` in state `s` the operation ends in `t` within `m` further micro-steps, however its place
would be stored. -/
def EndsIn (body : OpBody) (m : Nat) (p : Nat × Tmp) (s t : State) : Prop :=
  ∀ suspend n, m ≤ n → runMicros suspend (fun p s => body p.1 p.2 s) n p s = t

section EndsIn

variable {body : OpBody} {m k j : Nat} {tmp tmp' : Tmp} {s u t : State}

theorem EndsIn.done (h : body k tmp s = .done t) : EndsIn body 0 (k, tmp) s t :=
  fun _ _ _ => runMicros_done h

theorem EndsIn.next (h : body k tmp s = .next (j, tmp') u) (ht : EndsIn body m (j, tmp') u t) :
    EndsIn body (m + 1) (k, tmp) s t := by
  intro suspend n hn
  obtain ⟨n, rfl⟩ := Nat.exists_eq_add_of_le' (show 1 ≤ n by omega)
  rw [runMicros_next_succ (q := (j, tmp')) (t := u) h]
  exact ht suspend n (by omega)

theorem EndsIn.mono {m' : Nat} {p : Nat × Tmp} (h : EndsIn body m p s t) (hm : m ≤ m') :
    EndsIn body m' p s t :=
  fun suspend n hn => h suspend n (Nat.le_trans hm hn)

theorem EndsIn.eq {p : Nat × Tmp} (h : EndsIn body m p s t) (hu : t = u) : EndsIn body m p s u :=
  hu ▸ h

/-- An accepting turn with room for the whole operation. -/
theorem exec_of_endsIn {i : Instr} (hb : bodyOf i = some body) (hs : s.Accepts)
    (ht : EndsIn body m (1, Tmp.zero) s t) (hq : m ≤ s.quantum) : exec i s = .next t := by
  rw [exec_of_bodyOf hb, runOp_of_accepts hs, ht _ _ hq]

end EndsIn

/-! ### Plans -/

section Plans

variable {sys freq : Nat}

theorem solveTopDivider_undivided (h : sys / 65536 < freq) :
    solveTopDivider sys freq = some (planUndivided sys freq) :=
  if_pos h

theorem solveTopDivider_none (h : freq ≤ sys / 65536) (h' : 256 * freq ≤ sys / 65536) :
    solveTopDivider sys freq = none := by
  have hlarge : dividerTooLarge (thresholdHz sys) freq = true := decide_eq_true h'
  have hle : ¬thresholdHz sys < freq := Nat.not_lt.2 h
  simp only [solveTopDivider, if_neg hle, hlarge, if_true]

theorem solveTopDivider_divided (h : freq ≤ sys / 65536) (h' : sys / 65536 < 256 * freq) :
    solveTopDivider sys freq = some (planDivided (sys / 65536) freq) := by
  have hlarge : dividerTooLarge (thresholdHz sys) freq = false := decide_eq_false (Nat.not_le.2 h')
  have hle : ¬thresholdHz sys < freq := Nat.not_lt.2 h
  simp only [solveTopDivider, if_neg hle, hlarge, Bool.false_eq_true, if_false]
  rfl

/-- The undivided quotient fits 16 bits, and is at least 1. -/
theorem quotient_bounds (hfreq : 1 ≤ freq) (hle : freq ≤ sys) (h : sys / 65536 < freq) :
    1 ≤ sys / freq ∧ sys / freq ≤ 65535 := by
  have hlt : sys < 65536 * freq := by omega
  exact ⟨(Nat.le_div_iff_mul_le hfreq).2 (by omega),
    Nat.le_of_lt_succ ((Nat.div_lt_iff_lt_mul hfreq).2 hlt)⟩

theorem planUndivided_top (hfreq : 1 ≤ freq) (hle : freq ≤ sys) (h : sys / 65536 < freq) :
    (planUndivided sys freq).top.toNat = sys / freq - 1 := by
  obtain ⟨-, hhigh⟩ := quotient_bounds hfreq hle h
  exact toNat_ofNat_of_lt (by omega)

/-- The integer part of the divider fits 8 bits. -/
theorem planDivided_divInt {threshold : Nat} (h : threshold < 256 * freq) :
    (planDivided threshold freq).divInt.toNat = threshold / freq :=
  toNat_ofNat_of_lt ((Nat.div_lt_iff_lt_mul (by omega)).2 h)

/-- The fraction of the divider fits 4 bits, because the remainder lies below the frequency. -/
theorem planDivided_divFrac {threshold : Nat} (h : 1 ≤ freq) :
    (planDivided threshold freq).divFrac.toNat = 16 * (threshold % freq) / freq := by
  have hmod := Nat.mod_lt threshold h
  exact toNat_ofNat_of_lt ((Nat.div_lt_iff_lt_mul h).2 (by omega))

/-- The divider in sixteenths is the exact quotient, floored (R126). -/
theorem sixteenths_floor (threshold : Nat) (h : 1 ≤ freq) :
    (16 * (threshold / freq) + 16 * (threshold % freq) / freq) * freq ≤ 16 * threshold ∧
      16 * threshold < (16 * (threshold / freq) + 16 * (threshold % freq) / freq + 1) * freq := by
  have hsplit : 16 * threshold = 16 * (threshold / freq) * freq + 16 * (threshold % freq) := by
    conv_lhs => rw [← Nat.div_add_mod threshold freq]
    ring
  have hlow := Nat.div_mul_le_self (16 * (threshold % freq)) freq
  have hhigh := Nat.lt_mul_div_succ (16 * (threshold % freq)) h
  rw [Nat.mul_comm freq, Nat.add_mul, Nat.one_mul] at hhigh
  rw [Nat.add_mul, Nat.add_mul, Nat.add_mul, Nat.one_mul, hsplit]
  omega

end Plans

/-- Settles O29. -/
theorem plansFitAndAreExact : Obligations.PlansFitAndAreExact := by
  intro sys freq hfreq hle hsys
  refine ⟨fun h => ?_, fun h h' => ?_, fun h => ?_, fun h => solveTopDivider_none (by omega) h⟩
  · obtain ⟨hlow, hhigh⟩ := quotient_bounds hfreq hle h
    have htop := planUndivided_top hfreq hle h
    exact ⟨_, solveTopDivider_undivided h, by omega, by omega, rfl, rfl⟩
  · have hint := planDivided_divInt h'
    obtain ⟨hlow, hhigh⟩ := sixteenths_floor (sys / 65536) hfreq
    refine ⟨_, solveTopDivider_divided h h', rfl, ?_, ?_, ?_⟩
    · rw [hint]
      exact (Nat.le_div_iff_mul_le hfreq).2 (by omega)
    · rw [hint, planDivided_divFrac hfreq]
      exact hlow
    · rw [hint, planDivided_divFrac hfreq]
      exact hhigh
  · by_contra hlt
    obtain h' | h' := Nat.lt_or_ge (sys / 65536) freq
    · rw [solveTopDivider_undivided h'] at h
      cases h
    · rw [solveTopDivider_divided h' (by omega)] at h
      cases h

/-! ### `solve_top_divider` -/

/-- The response value of a plan, in natural numbers. -/
theorem planValue_eq (p : Plan) :
    p.value = BitVec.ofNat 48 (p.top.toNat + p.divInt.toNat * 2 ^ 16 + p.divFrac.toNat * 2 ^ 24) := by
  have h1 := p.top.isLt
  have h2 := p.divInt.isLt
  have h3 := p.divFrac.isLt
  apply BitVec.eq_of_toNat_eq
  rw [Plan.value, BitVec.toNat_append, BitVec.toNat_append, ← Nat.shiftLeft_add_eq_or_of_lt h1,
    ← Nat.shiftLeft_add_eq_or_of_lt h2, Nat.shiftLeft_eq, Nat.shiftLeft_eq, BitVec.toNat_setWidth,
    BitVec.toNat_ofNat]
  omega

/-- The answer to a plan, or to none. -/
def planAnswer : Option Plan → Answer
  | none => .inval .unsupportedDivider
  | some p => .ok p.value

/-- Where a turn of `solve_top_divider` ends: the checks of R122 in their order, then the plan. -/
def solvedTopDivider (freq : BitVec 32) (s : State) : State :=
  if freq = 0 then s.raise (.preconditionViolated .frequencyZero)
  else
    match s.clockQuery with
    | none => s.raise .clockAbsent
    | some hz =>
      if hz.toNat < freq.toNat then s.raise (.preconditionViolated .frequencyAboveClock)
      else s.respond (planAnswer (solveTopDivider hz.toNat freq.toNat))

theorem thresholdHz_toNat (hz : BitVec 32) :
    (BitVec.ofNat 32 (thresholdHz hz.toNat)).toNat = thresholdHz hz.toNat := by
  have := hz.isLt
  exact toNat_ofNat_of_lt (Nat.lt_of_le_of_lt (Nat.div_le_self _ _) this)

/-- Steps 4 to 7: the threshold is computed, and the branch of the plan responds. -/
theorem solveTopDividerBody_plan (freq : BitVec 32) (s : State) (tmp : Tmp) :
    EndsIn (solveTopDividerBody freq) 3 (4, tmp) s
      (s.respond (planAnswer (solveTopDivider tmp.sys.toNat freq.toNat))) := by
  have hthr := thresholdHz_toNat tmp.sys
  refine .next (tmp' := { tmp with threshold := BitVec.ofNat 32 (thresholdHz tmp.sys.toNat) }) rfl ?_
  generalize hu : { tmp with threshold := BitVec.ofNat 32 (thresholdHz tmp.sys.toNat) } = u
  have hsys : u.sys = tmp.sys := by rw [← hu]
  have huthr : u.threshold.toNat = thresholdHz tmp.sys.toNat := by rw [← hu]; exact hthr
  rw [← huthr] at hthr
  unfold solveTopDivider
  rw [← huthr, ← hsys]
  by_cases h : u.threshold.toNat < freq.toNat
  · have hbody : solveTopDividerBody freq 5 u s =
        .done (s.respond (.ok (planUndivided u.sys.toNat freq.toNat).value)) := if_pos h
    rw [if_pos h]
    exact (EndsIn.done hbody).mono (by omega)
  · have hbody : solveTopDividerBody freq 5 u s = .next (6, u) s := if_neg h
    rw [if_neg h]
    refine .next hbody ?_
    cases hlarge : dividerTooLarge u.threshold.toNat freq.toNat with
    | true =>
      have hbody : solveTopDividerBody freq 6 u s = .done (s.respond (.inval .unsupportedDivider)) :=
        if_pos hlarge
      exact (EndsIn.done hbody).mono (by omega)
    | false =>
      have hbody : solveTopDividerBody freq 6 u s = .next (7, u) s := by
        simp only [solveTopDividerBody, hlarge, Bool.false_eq_true, if_false, goto]
      exact .next hbody (.done rfl)

/-- A turn of `solve_top_divider` with room for its seven steps. -/
theorem exec_solveTopDivider {freq : BitVec 32} {s : State} (hs : s.Accepts) (hq : 6 ≤ s.quantum) :
    exec (.solveTopDivider freq) s = .next (solvedTopDivider freq s) := by
  refine exec_of_endsIn (m := 6) rfl hs ?_ hq
  unfold solvedTopDivider
  by_cases h : freq = 0
  · have hbody : solveTopDividerBody freq 1 Tmp.zero s =
        .done (s.raise (.preconditionViolated .frequencyZero)) := if_pos h
    rw [if_pos h]
    exact (EndsIn.done hbody).mono (by omega)
  · have hbody : solveTopDividerBody freq 1 Tmp.zero s = .next (2, Tmp.zero) s := if_neg h
    rw [if_neg h]
    refine .next hbody ?_
    cases hc : s.clockQuery with
    | none =>
      have hbody : solveTopDividerBody freq 2 Tmp.zero s = .done (s.raise .clockAbsent) := by
        simp only [solveTopDividerBody, queryClock, hc, fail]
      exact (EndsIn.done hbody).mono (by omega)
    | some hz =>
      have hbody : solveTopDividerBody freq 2 Tmp.zero s = .next (3, { Tmp.zero with sys := hz }) s := by
        simp only [solveTopDividerBody, queryClock, hc]
      refine .next hbody ?_
      by_cases hlt : hz.toNat < freq.toNat
      · have hbody : solveTopDividerBody freq 3 { Tmp.zero with sys := hz } s =
            .done (s.raise (.preconditionViolated .frequencyAboveClock)) := if_pos hlt
        simp only [if_pos hlt]
        exact (EndsIn.done hbody).mono (by omega)
      · have hbody : solveTopDividerBody freq 3 { Tmp.zero with sys := hz } s =
            .next (4, { Tmp.zero with sys := hz }) s := if_neg hlt
        simp only [if_neg hlt]
        exact .next hbody (solveTopDividerBody_plan freq s { Tmp.zero with sys := hz })

theorem toNat_pos {freq : BitVec 32} (h : freq ≠ 0) : 1 ≤ freq.toNat := by
  rw [ne_eq, BitVec.toNat_eq] at h
  exact Nat.pos_of_ne_zero h

theorem clockQuery_none {s : State} (h : s.sysClkHz = none ∨ s.sysClkHz = some 0) :
    s.clockQuery = none := by
  unfold State.clockQuery
  obtain h | h := h <;> rw [h]
  rfl

theorem clockQuery_some {s : State} {hz : BitVec 32} (h : s.sysClkHz = some hz) (h0 : hz ≠ 0) :
    s.clockQuery = some hz := by
  unfold State.clockQuery
  rw [h]
  exact if_neg h0

section SolvedTopDivider

variable {freq hz : BitVec 32} {s : State}

theorem solvedTopDivider_frequencyZero (h : freq = 0) :
    solvedTopDivider freq s = s.raise (.preconditionViolated .frequencyZero) := if_pos h

theorem solvedTopDivider_clockAbsent (h : freq ≠ 0) (hc : s.clockQuery = none) :
    solvedTopDivider freq s = s.raise .clockAbsent := by
  rw [solvedTopDivider, if_neg h, hc]

theorem solvedTopDivider_above (h : freq ≠ 0) (hc : s.clockQuery = some hz) (hlt : hz.toNat < freq.toNat) :
    solvedTopDivider freq s = s.raise (.preconditionViolated .frequencyAboveClock) := by
  simp only [solvedTopDivider, if_neg h, hc, if_pos hlt]

theorem solvedTopDivider_plan (h : freq ≠ 0) (hc : s.clockQuery = some hz) (hle : freq.toNat ≤ hz.toNat) :
    solvedTopDivider freq s = s.respond (planAnswer (solveTopDivider hz.toNat freq.toNat)) := by
  simp only [solvedTopDivider, if_neg h, hc, if_neg (Nat.not_lt.2 hle)]

theorem keepsBank_raise (s : State) (f : Fault) : KeepsBank s (s.raise f) :=
  ⟨State.chan_raise s f, by simp [KeepsInterrupts]⟩

theorem solvedTopDivider_keeps :
    KeepsBank s (solvedTopDivider freq s) ∧ (solvedTopDivider freq s).handler = s.handler := by
  have hraise (f : Fault) : KeepsBank s (s.raise f) ∧ (s.raise f).handler = s.handler :=
    ⟨keepsBank_raise s f, State.raise_handler s f⟩
  unfold solvedTopDivider
  split
  · exact hraise _
  · split
    · exact hraise _
    · split
      · exact hraise _
      · exact ⟨keepsBank_respond s _, State.respond_handler s _⟩

end SolvedTopDivider

section PlanAnswers

variable {sys freq : Nat}

theorem planAnswer_undivided (hfreq : 1 ≤ freq) (hle : freq ≤ sys) (h : sys / 65536 < freq) :
    planAnswer (solveTopDivider sys freq) = .ok (BitVec.ofNat 48 (sys / freq - 1 + 1 * 2 ^ 16)) := by
  have hint : (planUndivided sys freq).divInt.toNat = 1 := rfl
  have hfrac : (planUndivided sys freq).divFrac.toNat = 0 := rfl
  rw [solveTopDivider_undivided h, planAnswer, planValue_eq, planUndivided_top hfreq hle h, hint, hfrac,
    Nat.zero_mul, Nat.add_zero]

theorem planAnswer_divided (hfreq : 1 ≤ freq) (h : freq ≤ sys / 65536) (h' : sys / 65536 < 256 * freq) :
    planAnswer (solveTopDivider sys freq) =
      .ok (BitVec.ofNat 48 (65535 + sys / 65536 / freq * 2 ^ 16 +
        16 * (sys / 65536 % freq) / freq * 2 ^ 24)) := by
  have htop : (planDivided (sys / 65536) freq).top.toNat = 65535 := rfl
  rw [solveTopDivider_divided h h', planAnswer, planValue_eq, planDivided_divInt h',
    planDivided_divFrac hfreq, htop]

theorem planAnswer_none (h : freq ≤ sys / 65536) (h' : 256 * freq ≤ sys / 65536) :
    planAnswer (solveTopDivider sys freq) = .inval .unsupportedDivider := by
  rw [solveTopDivider_none h h', planAnswer]

end PlanAnswers

/-- Settles O28: the checks pick the fault, and the frequency the branch of the plan. -/
theorem solveTopDividerAnswers : Obligations.SolveTopDividerAnswers := by
  intro freq s hs hq
  obtain ⟨hbank, hhandler⟩ := solvedTopDivider_keeps (freq := freq) (s := s)
  refine ⟨_, exec_solveTopDivider hs hq, hbank, hhandler, fun h => ?_, fun h hc => ?_,
    fun sys hc h0 h => ?_⟩
  · rw [solvedTopDivider_frequencyZero h, State.raise_faultLog]
  · rw [solvedTopDivider_clockAbsent h (clockQuery_none hc), State.raise_faultLog]
  · have hquery := clockQuery_some hc h0
    have hfreq := toNat_pos h
    have hplan (hle : freq.toNat ≤ sys.toNat) : Finished s (solvedTopDivider freq s)
        (planAnswer (solveTopDivider sys.toNat freq.toNat)) := by
      rw [solvedTopDivider_plan h hquery hle]
      exact finished_respond _ rfl rfl
    have hthr : sys.toNat / 65536 ≤ sys.toNat := Nat.div_le_self _ _
    refine ⟨fun hlt => ?_, fun hle hlt => ?_, fun hle hlarge => ?_, fun hle hlt => ?_⟩
    · rw [solvedTopDivider_above h hquery hlt, State.raise_faultLog]
    · rw [← planAnswer_undivided hfreq hle hlt]
      exact hplan hle
    · rw [← planAnswer_none hle hlarge]
      exact hplan (hle.trans hthr)
    · rw [← planAnswer_divided hfreq hle hlt]
      exact hplan (hle.trans hthr)

/-! ### `solve_compare` -/

/-- The answer to a compare value, or to none. -/
def compareAnswer : Option (BitVec 16) → Answer
  | none => .inval .unrepresentableFullDuty
  | some m => .ok (m.setWidth 48)

/-- Where a turn of `solve_compare` ends: its check (R124), then the compare value. -/
def solvedCompare (top : BitVec 16) (duty : BitVec 32) (s : State) : State :=
  if 65536 < duty.toNat then s.raise (.preconditionViolated .dutyAboveFullScale)
  else s.respond (compareAnswer (solveCompare top duty))

/-- A turn of `solve_compare` with room for its three steps. -/
theorem exec_solveCompare {top : BitVec 16} {duty : BitVec 32} {s : State} (hs : s.Accepts)
    (hq : 2 ≤ s.quantum) : exec (.solveCompare top duty) s = .next (solvedCompare top duty s) := by
  refine exec_of_endsIn (m := 2) rfl hs ?_ hq
  unfold solvedCompare
  split
  · next h =>
    have hbody : solveCompareBody top duty 1 Tmp.zero s =
        .done (s.raise (.preconditionViolated .dutyAboveFullScale)) := if_pos h
    exact (EndsIn.done hbody).mono (by omega)
  · next h =>
    have hcheck : solveCompareBody top duty 1 Tmp.zero s = .next (2, Tmp.zero) s := if_neg h
    have hanswer : (match solveCompare top duty with
        | none => answer (.inval .unrepresentableFullDuty) s
        | some m => answer (.ok (m.setWidth 48)) s) =
        .done (s.respond (compareAnswer (solveCompare top duty))) := by
      cases solveCompare top duty <;> rfl
    refine .next hcheck ?_
    by_cases hfull : duty.toNat = Config.maxDuty
    · have hbody : solveCompareBody top duty 2 Tmp.zero s =
          .done (s.respond (compareAnswer (solveCompare top duty))) := (if_pos hfull).trans hanswer
      exact (EndsIn.done hbody).mono (by omega)
    · have hbody : solveCompareBody top duty 2 Tmp.zero s = .next (3, Tmp.zero) s := if_neg hfull
      exact .next hbody (.done hanswer)

section CompareValues

variable {top : BitVec 16} {duty : BitVec 32}

theorem top_ne_max (ht : top ≠ 65535) : top.toNat ≠ 65535 := by
  rwa [ne_eq, BitVec.toNat_eq] at ht

theorem solveCompare_none (h : duty.toNat = 65536) (ht : top = 65535) : solveCompare top duty = none := by
  have hfull : duty.toNat = Config.maxDuty := h
  subst ht
  rw [solveCompare, compareValue, if_pos hfull]
  rfl

theorem solveCompare_fullDuty (h : duty.toNat = 65536) (ht : top ≠ 65535) :
    solveCompare top duty = some (BitVec.ofNat 16 (top.toNat + 1)) := by
  have hfull : duty.toNat = Config.maxDuty := h
  rw [solveCompare, compareValue, if_pos hfull, if_neg (top_ne_max ht), Option.map_some]

theorem solveCompare_floor (h : duty.toNat < 65536) :
    solveCompare top duty = some (BitVec.ofNat 16 ((top.toNat + 1) * duty.toNat / 65536)) := by
  have h' : ¬duty.toNat = Config.maxDuty := Nat.ne_of_lt h
  rw [solveCompare, compareValue, if_neg h', Option.map_some]
  rfl

/-- Below full duty the compare value is below the number of counts, and so fits 16 bits. -/
theorem compareValue_lt (h : duty.toNat < 65536) :
    (top.toNat + 1) * duty.toNat / 65536 < 65536 := by
  have ht := top.isLt
  have hle : (top.toNat + 1) * duty.toNat ≤ 65536 * duty.toNat := Nat.mul_le_mul_right _ (by omega)
  omega

theorem setWidth_ofNat_of_lt {v : Nat} (h : v < 65536) :
    (BitVec.ofNat 16 v).setWidth 48 = BitVec.ofNat 48 v := by
  apply BitVec.eq_of_toNat_eq
  rw [BitVec.toNat_setWidth, toNat_ofNat_of_lt h, BitVec.toNat_ofNat]

/-- Only a full duty at the highest top has no compare value. -/
theorem solveCompare_eq_none (h : solveCompare top duty = none) : duty.toNat = 65536 ∧ top = 65535 := by
  rw [solveCompare, Option.map_eq_none_iff, compareValue] at h
  split at h
  · next hd =>
    split at h
    · next ht => exact ⟨hd, by_contra fun h => top_ne_max h ht⟩
    · cases h
  · cases h

theorem compareAnswer_none (h : duty.toNat = 65536) (ht : top = 65535) :
    compareAnswer (solveCompare top duty) = .inval .unrepresentableFullDuty := by
  rw [solveCompare_none h ht, compareAnswer]

theorem compareAnswer_fullDuty (h : duty.toNat = 65536) (ht : top ≠ 65535) :
    compareAnswer (solveCompare top duty) = .ok (BitVec.ofNat 48 (top.toNat + 1)) := by
  have htop := top_ne_max ht
  have hlt := top.isLt
  rw [solveCompare_fullDuty h ht, compareAnswer, setWidth_ofNat_of_lt (by omega)]

theorem compareAnswer_floor (h : duty.toNat < 65536) :
    compareAnswer (solveCompare top duty) =
      .ok (BitVec.ofNat 48 ((top.toNat + 1) * duty.toNat / 65536)) := by
  rw [solveCompare_floor h, compareAnswer, setWidth_ofNat_of_lt (compareValue_lt h)]

end CompareValues

/-- Settles O30. -/
theorem solveCompareAnswers : Obligations.SolveCompareAnswers := by
  intro top duty s hs hq
  have hanswer (h : duty.toNat ≤ 65536) :
      Finished s (solvedCompare top duty s) (compareAnswer (solveCompare top duty)) := by
    rw [solvedCompare, if_neg (Nat.not_lt.2 h)]
    exact finished_respond _ rfl rfl
  have hframe : KeepsBank s (solvedCompare top duty s) ∧ (solvedCompare top duty s).handler = s.handler := by
    unfold solvedCompare
    split
    · exact ⟨keepsBank_raise s _, State.raise_handler s _⟩
    · exact ⟨keepsBank_respond s _, State.respond_handler s _⟩
  refine ⟨_, exec_solveCompare hs hq, hframe.1, hframe.2, fun h => ?_, fun h ht => ?_, fun h ht => ?_,
    fun h => ⟨compareValue_lt h, ?_⟩⟩
  · rw [solvedCompare, if_pos h]
    exact ⟨State.raise_faultLog s _, State.raise_responses s _⟩
  · rw [← compareAnswer_none h ht]
    exact hanswer h.le
  · rw [← compareAnswer_fullDuty h ht]
    exact hanswer h.le
  · rw [← compareAnswer_floor h]
    exact hanswer h.le

end Sys2Proof.Machine
end

section
/-! PROOFS. `start` (43_channel_controller.md R140, R245, R213, R50). A turn long enough for the whole operation
passes the checks, plans, and writes `TOP`, `DIV`, half of `CC` and the enable bit, all of one channel; from
its step 4 on no micro-step looks at the clock. -/

namespace Sys2Proof.Machine

open Sys2Proof

/-! ### The channel that `start` leaves -/

theorem State.setChan_setChan (s : State) (c : ChannelId) (a b : Channel) :
    (s.setChan c a).setChan c b = s.setChan c b := by
  simp only [State.setChan]
  congr 1
  exact Vector.set_set ..

theorem keepsSurroundings_setChan (s : State) (c : ChannelId) (ch : Channel) :
    KeepsSurroundings s (s.setChan c ch) := by simp [KeepsSurroundings]

/-- `TOP` and `DIV` as a plan gives them (R140 steps 5 and 6). -/
def Channel.planned (ch : Channel) (p : Plan) : Channel :=
  (ch.writeTop (p.top.setWidth 32)).writeDiv (dividerWord p.divInt (p.divFrac.setWidth 8))

/-- The compare value of one sub-pin (R140 step 9). -/
def Channel.compared (ch : Channel) (sp : SubPin) (m : BitVec 16) : Channel :=
  ch.writeCc (ccWithSubPin ch.cc sp m)

/-- The write of `CSR` that enables the channel (R140 step 11). -/
def Channel.enabled (ch : Channel) : Channel := ch.writeCsr (csrWithEnable (ch.csr.setWidth 32) true)

theorem planned_top (ch : Channel) (p : Plan) : (ch.planned p).top = p.top :=
  setWidth_word_value16 p.top

theorem planned_divider (ch : Channel) (p : Plan) :
    (ch.planned p).divInt = p.divInt ∧ (ch.planned p).divFrac = p.divFrac := by
  have hlt := p.divFrac.isLt
  have hfrac : (p.divFrac.setWidth 8).toNat ≤ 15 := by rw [BitVec.toNat_setWidth]; omega
  have hwidth : (p.divFrac.setWidth 8).setWidth 4 = p.divFrac := by
    rw [BitVec.setWidth_setWidth_of_le _ (by decide), BitVec.setWidth_eq]
  obtain ⟨hi, hf⟩ :=
    writeDiv_dividerWord (ch.writeTop (p.top.setWidth 32)) p.divInt (p.divFrac.setWidth 8) hfrac
  exact ⟨hi, hf.trans hwidth⟩

theorem compared_ccA (ch : Channel) (pin : BitVec 8) (m : BitVec 16) :
    (ch.compared (subPinOf pin) m).ccA = if pin.toNat % 2 = 0 then m else ch.ccA := by
  unfold subPinOf
  split
  · exact (ccWithA_fields ch m).1
  · exact (ccWithB_fields ch m).2

theorem compared_ccB (ch : Channel) (pin : BitVec 8) (m : BitVec 16) :
    (ch.compared (subPinOf pin) m).ccB = if pin.toNat % 2 = 0 then ch.ccB else m := by
  unfold subPinOf
  split
  · exact (ccWithA_fields ch m).2
  · exact (ccWithB_fields ch m).1

theorem onlyConfiguration_planned (ch : Channel) (p : Plan) : OnlyConfiguration ch (ch.planned p) :=
  (onlyConfiguration_writeTop ch _).trans (onlyConfiguration_writeDiv _ _)

/-- The whole of it. -/
def Channel.started (ch : Channel) (sp : SubPin) (p : Plan) (m : BitVec 16) : Channel :=
  ((ch.planned p).compared sp m).enabled

theorem onlyConfiguration_started (ch : Channel) (sp : SubPin) (p : Plan) (m : BitVec 16) :
    OnlyConfiguration ch (ch.started sp p m) :=
  ((onlyConfiguration_planned ch p).trans (onlyConfiguration_writeCc _ _)).trans
    (onlyConfiguration_writeCsr _ _)

theorem started_csr_getLsbD (ch : Channel) (sp : SubPin) (p : Plan) (m : BitVec 16) (k : Nat) :
    (ch.started sp p m).csr.getLsbD k = if k = 0 then true else ch.csr.getLsbD k :=
  csrWithEnable_getLsbD ((ch.planned p).compared sp m) true k

/-! ### A whole turn -/

section Turns

variable {pin : BitVec 8} {freq duty hz : BitVec 32} {s t : State} {m : Nat}

/-- Steps 1 to 3: the operands and the clock pass their checks. -/
theorem startBody_checks (hfreq : freq ≠ 0) (hduty : duty.toNat ≤ 65536) (hc : s.clockQuery = some hz)
    (hle : freq.toNat ≤ hz.toNat)
    (ht : EndsIn (startBody pin freq duty) m (4, { Tmp.zero with sys := hz }) s t) :
    EndsIn (startBody pin freq duty) (m + 3) (1, Tmp.zero) s t := by
  have hd : ¬Config.maxDuty < duty.toNat := Nat.not_lt.2 hduty
  have h2 : startBody pin freq duty 2 Tmp.zero s = .next (3, Tmp.zero) s := by
    simp only [startBody, if_neg hfreq, if_neg hd, goto]
  have h3 : startBody pin freq duty 3 Tmp.zero s = .next (4, { Tmp.zero with sys := hz }) s := by
    simp only [startBody, hc, if_neg (Nat.not_lt.2 hle)]
  exact .next rfl (.next h2 (.next h3 ht))

/-- Steps 4 to 6: a plan is written. -/
theorem startBody_plan {tmp : Tmp} {p : Plan} (hp : solveTopDivider tmp.sys.toNat freq.toNat = some p)
    (ht : EndsIn (startBody pin freq duty) m
      (7, { tmp with top := p.top, divInt := p.divInt, divFrac := p.divFrac })
      (s.setChan (channelOf pin) ((s.chan (channelOf pin)).planned p)) t) :
    EndsIn (startBody pin freq duty) (m + 3) (4, tmp) s t := by
  have h4 : startBody pin freq duty 4 tmp s =
      .next (5, { tmp with top := p.top, divInt := p.divInt, divFrac := p.divFrac }) s := by
    simp only [startBody, hp]
  have h6 : startBody pin freq duty 6 { tmp with top := p.top, divInt := p.divInt, divFrac := p.divFrac }
      (s.regWrite (.top (channelOf pin)) (p.top.setWidth 32)) =
      .next (7, { tmp with top := p.top, divInt := p.divInt, divFrac := p.divFrac })
        (s.setChan (channelOf pin) ((s.chan (channelOf pin)).planned p)) := by
    simp only [startBody, writeTo, State.regWrite, State.chan_setChan_same, State.setChan_setChan,
      Channel.planned]
  exact .next h4 (.next rfl (.next h6 ht))

/-- Steps 7 to 12: a compare value is written, the channel enabled, and the response given. -/
theorem startBody_compare {tmp : Tmp} {ch : Channel} {v : BitVec 16} (hv : solveCompare tmp.top duty = some v) :
    EndsIn (startBody pin freq duty) 5 (7, tmp) (s.setChan (channelOf pin) ch)
      ((s.setChan (channelOf pin) (ch.compared (subPinOf pin) v).enabled).respond (.ok 0)) := by
  have h7 : startBody pin freq duty 7 tmp (s.setChan (channelOf pin) ch) =
      .next (8, { tmp with compare := v }) (s.setChan (channelOf pin) ch) := by
    simp only [startBody, hv]
  refine (EndsIn.next h7 (.next rfl (.next rfl (.next rfl (.next rfl (.done rfl)))))).eq ?_
  simp only [State.regWrite, State.regRead, State.chan_setChan_same, State.setChan_setChan,
    Channel.compared, Channel.enabled]

theorem exec_start_unsupported (hs : s.Accepts) (hq : 11 ≤ s.quantum) (hfreq : freq ≠ 0)
    (hduty : duty.toNat ≤ 65536) (hc : s.clockQuery = some hz) (hle : freq.toNat ≤ hz.toNat)
    (hp : solveTopDivider hz.toNat freq.toNat = none) :
    exec (.start pin freq duty) s = .next (s.respond (.inval .unsupportedDivider)) := by
  have h4 : startBody pin freq duty 4 { Tmp.zero with sys := hz } s =
      .done (s.respond (.inval .unsupportedDivider)) := by
    simp only [startBody, hp, answer]
  exact exec_of_endsIn rfl hs (startBody_checks hfreq hduty hc hle (.done h4)) (by omega)

section Planned

variable {p : Plan} (hs : s.Accepts) (hq : 11 ≤ s.quantum) (hfreq : freq ≠ 0) (hduty : duty.toNat ≤ 65536)
  (hc : s.clockQuery = some hz) (hle : freq.toNat ≤ hz.toNat)
  (hp : solveTopDivider hz.toNat freq.toNat = some p)
include hs hq hfreq hduty hc hle hp

theorem exec_start_fullDuty (hv : solveCompare p.top duty = none) :
    exec (.start pin freq duty) s =
      .next ((s.setChan (channelOf pin) ((s.chan (channelOf pin)).planned p)).respond
        (.inval .unrepresentableFullDuty)) := by
  refine exec_of_endsIn rfl hs (startBody_checks hfreq hduty hc hle (startBody_plan hp (.done ?_))) (by omega)
  simp only [startBody, hv, answer]

theorem exec_start {v : BitVec 16} (hv : solveCompare p.top duty = some v) :
    exec (.start pin freq duty) s =
      .next ((s.setChan (channelOf pin)
        ((s.chan (channelOf pin)).started (subPinOf pin) p v)).respond (.ok 0)) :=
  exec_of_endsIn rfl hs (startBody_checks hfreq hduty hc hle (startBody_plan hp (startBody_compare hv)))
    (by omega)

end Planned

end Turns

/-! ### The statements -/

/-- `t | 1`, as the enabling write puts it (R140 step 11). -/
theorem csrWithEnable_true (t : Word) : csrWithEnable t true = t ||| 0x01#32 := by
  rw [csrWithEnable_eq]
  ext k hk
  interval_cases k <;> simp

theorem ccWithSubPin_eq (t : Word) (pin : BitVec 8) (v : BitVec 16) :
    ccWithSubPin t (subPinOf pin) v = if pin.toNat % 2 = 0 then (t &&& 0xFFFF0000#32) ||| v.setWidth 32
      else (t &&& 0x0000FFFF#32) ||| (v.setWidth 32 <<< 16) := by
  unfold subPinOf
  split <;> rfl

/-- Settles O32: the whole turn, and each place. -/
theorem startProgramsAndEnablesTheChannel : Obligations.StartProgramsAndEnablesTheChannel := by
  intro pin freq duty s
  refine ⟨fun sys p m hs hq hsys h0 hfreq hle hduty hp hm => ?_, fun hs hq => exec_micro_accepts rfl hs hq rfl,
    fun k tmp hs => ⟨?_, ?_, ?_, ?_, ?_, ?_, ?_, ?_, ?_, ?_, ?_, ?_, ?_⟩⟩
  · obtain ⟨hchan, hother, hintr, haround, hfin⟩ :=
      setsChannel_respond s (channelOf pin) ((s.chan (channelOf pin)).started (subPinOf pin) p m)
    have hbit := started_csr_getLsbD (s.chan (channelOf pin)) (subPinOf pin) p m
    obtain ⟨hint, hfrac⟩ := planned_divider (s.chan (channelOf pin)) p
    refine ⟨_, exec_start hs hq hfreq hduty (clockQuery_some hsys h0) hle hp hm, hfin, ?_⟩
    rw [hchan]
    exact ⟨planned_top (s.chan (channelOf pin)) p, hint, hfrac,
      compared_ccA ((s.chan (channelOf pin)).planned p) pin m,
      compared_ccB ((s.chan (channelOf pin)).planned p) pin m, hbit 0,
      fun k hk => (hbit k).trans (if_neg hk), onlyConfiguration_started _ _ p m, hother, hintr, haround⟩
  · rintro rfl hfreq hduty
    refine exec_micro_next rfl hs ?_
    have hd : ¬Config.maxDuty < duty.toNat := Nat.not_lt.2 hduty
    simp only [startBody, if_neg hfreq, if_neg hd, goto]
  · rintro sys rfl hsys h0 hle
    refine exec_micro_next rfl hs ?_
    simp only [startBody, clockQuery_some hsys h0, if_neg (Nat.not_lt.2 hle)]
  · rintro p rfl hp
    refine exec_micro_next rfl hs ?_
    simp only [startBody, hp]
  · rintro rfl hp
    refine exec_micro_done rfl hs ?_
    simp only [startBody, hp, answer]
  · rintro rfl
    exact exec_micro_next rfl hs rfl
  · rintro rfl
    refine exec_micro_next rfl hs ?_
    have hwidth : (tmp.divFrac.setWidth 8).setWidth 32 = tmp.divFrac.setWidth 32 := by
      apply BitVec.eq_of_toNat_eq
      simp only [BitVec.toNat_setWidth]
      omega
    rw [← hwidth]
    rfl
  · rintro m rfl hm
    refine exec_micro_next rfl hs ?_
    simp only [startBody, hm]
  · rintro rfl hm
    refine exec_micro_done rfl hs ?_
    simp only [startBody, hm, answer]
  · rintro rfl
    exact exec_micro_next rfl hs rfl
  · rintro rfl
    rw [← ccWithSubPin_eq]
    exact exec_micro_next rfl hs rfl
  · rintro rfl
    exact exec_micro_next rfl hs rfl
  · rintro rfl
    rw [← csrWithEnable_true]
    exact exec_micro_next rfl hs rfl
  · rintro rfl
    exact exec_micro_done rfl hs rfl

/-- Settles O33: the failure before the writes leaves nothing, the failure after step 6 the plan, whose top is
65535 because only that one has no compare value. -/
theorem failedStartIsNotRolledBack : Obligations.FailedStartIsNotRolledBack := by
  intro pin freq duty sys s hs hq hsys h0 hfreq hle hduty
  have hc := clockQuery_some hsys h0
  refine ⟨fun hp => ⟨_, exec_start_unsupported hs hq hfreq hduty hc hle hp, frame_respond s _⟩,
    fun p hp hv => ?_⟩
  obtain ⟨hint, hfrac⟩ := planned_divider (s.chan (channelOf pin)) p
  obtain ⟨hother, hintr⟩ := keeps_setChan s (channelOf pin) ((s.chan (channelOf pin)).planned p)
  obtain ⟨-, htop⟩ := solveCompare_eq_none hv
  refine ⟨_, exec_start_fullDuty hs hq hfreq hduty hc hle hp hv, finished_respond _ rfl rfl, ?_⟩
  rw [State.chan_respond, State.chan_setChan_same, planned_top]
  exact ⟨htop, hint, hfrac, rfl, rfl, onlyConfiguration_planned _ p,
    keepsOtherChannels_respond hother _, keepsInterrupts_respond hintr _,
    keepsSurroundings_respond (keepsSurroundings_setChan s _ _) _⟩

/-- Settles O34: each check that fails ends the turn with its fault. -/
theorem startReportsTheFirstBrokenPrecondition : Obligations.StartReportsTheFirstBrokenPrecondition := by
  intro pin freq duty s hs hq
  have hraise {f : Fault} {m : Nat} (hm : m ≤ 11)
      (h : EndsIn (startBody pin freq duty) m (1, Tmp.zero) s (s.raise f)) :
      (runOp (.start pin freq duty) (startBody pin freq duty) s).faultLog = s.faultLog ++ [f] ∧
        KeepsBank s (runOp (.start pin freq duty) (startBody pin freq duty) s) := by
    rw [Host.Outcome.next.inj (exec_of_endsIn (i := .start pin freq duty) rfl hs h (hm.trans hq))]
    exact ⟨State.raise_faultLog s f, keepsBank_raise s f⟩
  have hpass {m : Nat} {t : State} (hfreq : freq ≠ 0) (hduty : duty.toNat ≤ 65536)
      (h : EndsIn (startBody pin freq duty) m (3, Tmp.zero) s t) :
      EndsIn (startBody pin freq duty) (m + 2) (1, Tmp.zero) s t := by
    have hd : ¬Config.maxDuty < duty.toNat := Nat.not_lt.2 hduty
    exact .next rfl (.next (by simp only [startBody, if_neg hfreq, if_neg hd, goto]) h)
  refine ⟨_, exec_of_bodyOf rfl s, fun hfreq => hraise (m := 1) (by omega) ?_,
    fun hfreq hduty => hraise (m := 1) (by omega) ?_,
    fun hfreq hduty hc => hraise (m := 2) (by omega) (hpass hfreq hduty (.done ?_)),
    fun sys hfreq hduty hc h0 hlt => hraise (m := 2) (by omega) (hpass hfreq hduty (.done ?_))⟩
  · exact .next rfl (.done (if_pos hfreq))
  · have hd : Config.maxDuty < duty.toNat := hduty
    exact .next rfl (.done (by simp only [startBody, if_neg hfreq, if_pos hd, fail]))
  · simp only [startBody, clockQuery_none hc, fail]
  · simp only [startBody, clockQuery_some hc h0, if_pos hlt, fail]

end Sys2Proof.Machine
end

section
/-! PROOFS. The clock that `start` sampled (20_memory.md R50, 60_exceptions.md R227). A change of the clock input
goes through every micro-step from step 4 on, and through the ways a turn ends. -/

namespace Sys2Proof.Machine

open Sys2Proof

/-- Another value of the clock input. -/
def State.withClock (s : State) (hz : Option (BitVec 32)) : State := { s with sysClkHz := hz }

section WithClock

variable (s : State) (hz : Option (BitVec 32))

theorem setSeq_withClock (q : Seq) : (s.withClock hz).setSeq q = (s.setSeq q).withClock hz := by
  have hctx : (s.withClock hz).ctx = s.ctx := rfl
  unfold State.setSeq
  rw [hctx]
  cases s.ctx with
  | foreground => rfl
  | handler => rfl
  | interrupt => cases q <;> rfl

theorem regWrite_withClock (r : Reg) (v : Word) :
    (s.withClock hz).regWrite r v = (s.regWrite r v).withClock hz := by cases r <;> rfl

theorem setDispatch_withClock (d : Dispatch) :
    (s.withClock hz).setDispatch d = (s.setDispatch d).withClock hz := by
  have hirq : (s.withClock hz).seqIrq = s.seqIrq := rfl
  unfold State.setDispatch
  rw [hirq]
  cases s.seqIrq <;> rfl

theorem handlerReturn_withClock : (s.withClock hz).handlerReturn = s.handlerReturn.withClock hz := by
  have hctx : (s.withClock hz).ctx = s.ctx := rfl
  have hdispatch : (s.withClock hz).currentDispatch = s.currentDispatch := rfl
  have hwords : (s.withClock hz).handlerWords = s.handlerWords := rfl
  have hend : (s.withClock hz).handlerEnd = s.handlerEnd := rfl
  unfold State.handlerReturn
  rw [hctx, hdispatch, hwords, hend]
  split
  · exact setDispatch_withClock s hz _
  · rfl

theorem respond_withClock (a : Answer) : (s.withClock hz).respond a = (s.respond a).withClock hz := by
  have hset := setSeq_withClock { s with responses := s.responses ++ [(s.ctx, a.word)] } hz .idle
  exact (congrArg State.handlerReturn hset).trans (handlerReturn_withClock _ hz)

end WithClock

/-- What a micro-step does, with another clock input. -/
def Micro.withClock {P : Type} (hz : Option (BitVec 32)) : Micro P → Micro P
  | .next p s => .next p (s.withClock hz)
  | .yield p s => .yield p (s.withClock hz)
  | .done s => .done (s.withClock hz)

/-- From its step 4 on no micro-step of `start` looks at the clock input. -/
theorem startBody_withClock (pin : BitVec 8) (freq duty : BitVec 32) {k : Nat} (hk : 4 ≤ k) (tmp : Tmp)
    (hz : Option (BitVec 32)) (s : State) :
    startBody pin freq duty k tmp (s.withClock hz) = (startBody pin freq duty k tmp s).withClock hz := by
  have hread (r : Reg) (j : Nat) : readTo r j tmp (s.withClock hz) = (readTo r j tmp s).withClock hz := by
    cases r <;> rfl
  have hwrite (r : Reg) (v : Word) (j : Nat) :
      writeTo r v j tmp (s.withClock hz) = (writeTo r v j tmp s).withClock hz :=
    congrArg (Micro.next (j, tmp)) (regWrite_withClock s hz r v)
  have hanswer (a : Answer) : answer a (s.withClock hz) = (answer a s).withClock hz :=
    congrArg Micro.done (respond_withClock s hz a)
  unfold startBody
  split
  · omega
  · omega
  · omega
  · cases solveTopDivider tmp.sys.toNat freq.toNat with
    | none => exact hanswer _
    | some p => rfl
  · exact hwrite _ _ _
  · exact hwrite _ _ _
  · cases solveCompare tmp.top duty with
    | none => exact hanswer _
    | some m => rfl
  · exact hread _ _
  · exact hwrite _ _ _
  · exact hread _ _
  · exact hwrite _ _ _
  · exact hanswer _

/-- A turn of `start` from its step 4 on. -/
theorem runMicros_start_withClock {pin : BitVec 8} {freq duty : BitVec 32} (i : Instr)
    (hz : Option (BitVec 32)) (n : Nat) :
    ∀ (k : Nat) (tmp : Tmp) (s : State), 4 ≤ k →
      runMicros (suspendOp i) (fun p s => startBody pin freq duty p.1 p.2 s) n (k, tmp) (s.withClock hz) =
        (runMicros (suspendOp i) (fun p s => startBody pin freq duty p.1 p.2 s) n (k, tmp) s).withClock
          hz := by
  induction n with
  | zero =>
    intro k tmp s hk
    simp only [runMicros, startBody_withClock pin freq duty hk]
    cases startBody pin freq duty k tmp s with
    | next q u => exact setSeq_withClock u hz _
    | yield q u => exact setSeq_withClock u hz _
    | done u => rfl
  | succ n ih =>
    intro k tmp s hk
    have hforward := startBody_forward pin freq duty k tmp s
    simp only [runMicros, startBody_withClock pin freq duty hk]
    revert hforward
    cases startBody pin freq duty k tmp s with
    | next q u =>
      intro hforward
      cases hforward
      exact ih _ _ _ (by omega)
    | yield q u => exact fun _ => setSeq_withClock u hz _
    | done u => exact fun _ => rfl

/-- Settles O35. -/
theorem startKeepsTheClockItSampled : Obligations.StartKeepsTheClockItSampled := by
  intro pin freq duty k tmp hz s t _ hseq hk he
  have hseq' : (s.withClock hz).seq = .inOp (.start pin freq duty) k tmp := hseq
  rw [exec_of_bodyOf rfl, Host.Outcome.next.injEq, runOp_of_inside hseq] at he
  rw [← he]
  show exec (.start pin freq duty) (s.withClock hz) = _
  rw [exec_of_bodyOf rfl, runOp_of_inside hseq']
  exact congrArg Host.Outcome.next (runMicros_start_withClock _ hz s.quantum k tmp s hk)

end Sys2Proof.Machine
end

section
/-! PROOFS. `configure` (41_config_setters.md R109). A whole turn is the eight setters' register accesses one
after the other on one channel, so what it leaves is the composition of what each leaves. -/

namespace Sys2Proof.Machine

open Sys2Proof

/-! ### The channel that `configure` leaves -/

/-- The three mode fields of `CSR`, each from the word as read just before. -/
def Channel.withPhCorrect (ch : Channel) (ph : Bool) : Channel :=
  ch.writeCsr (csrWithPhCorrect (ch.csr.setWidth 32) ph)

def Channel.withInvert (ch : Channel) (invA invB : Bool) : Channel :=
  ch.writeCsr (csrWithInvert (ch.csr.setWidth 32) invA invB)

def Channel.withDivMode (ch : Channel) (mode : DivMode) : Channel :=
  ch.writeCsr (csrWithDivMode (ch.csr.setWidth 32) mode)

/-- The enable bit, the last access. -/
def Channel.withEn (ch : Channel) (en : Bool) : Channel :=
  ch.writeCsr (csrWithEnable (ch.csr.setWidth 32) en)

def Channel.withModes (ch : Channel) (snap : Snapshot) : Channel :=
  ((ch.withPhCorrect snap.phCorrect).withInvert snap.invA snap.invB).withDivMode snap.divMode

/-- `DIV`, or nothing where the divider is malformed. -/
def Channel.withDivider (ch : Channel) (snap : Snapshot) : Channel :=
  if dividerMalformed snap.divInt snap.divFrac then ch
  else ch.writeDiv (dividerWord snap.divInt snap.divFrac)

def Channel.withCompares (ch : Channel) (snap : Snapshot) : Channel :=
  (ch.compared .A snap.ccA).compared .B snap.ccB

def Channel.configured (ch : Channel) (snap : Snapshot) : Channel :=
  ((((ch.withModes snap).writeTop (snap.top.setWidth 32)).withDivider snap).withCompares snap).withEn snap.en

section Configured

variable (ch : Channel) (snap : Snapshot)

theorem withModes_csr_getLsbD (k : Nat) :
    (ch.withModes snap).csr.getLsbD k =
      if k = 4 then snap.divMode.toNat.testBit 0 else if k = 5 then snap.divMode.toNat.testBit 1
      else if k = 2 then snap.invA else if k = 3 then snap.invB
      else if k = 1 then snap.phCorrect else ch.csr.getLsbD k := by
  rw [← csrWithPhCorrect_getLsbD ch snap.phCorrect k, ← csrWithInvert_getLsbD _ snap.invA snap.invB k]
  exact csrWithDivMode_getLsbD _ snap.divMode k

theorem withDivider_keeps :
    (ch.withDivider snap).csr = ch.csr ∧ (ch.withDivider snap).cc = ch.cc ∧
      (ch.withDivider snap).top = ch.top ∧ OnlyConfiguration ch (ch.withDivider snap) := by
  unfold Channel.withDivider
  split
  · exact ⟨rfl, rfl, rfl, .refl ch⟩
  · exact ⟨rfl, rfl, rfl, onlyConfiguration_writeDiv ch _⟩

theorem withCompares_ccA : (ch.withCompares snap).ccA = snap.ccA :=
  (ccWithB_fields (ch.compared .A snap.ccA) snap.ccB).2.trans (ccWithA_fields ch snap.ccA).1

theorem withCompares_ccB : (ch.withCompares snap).ccB = snap.ccB :=
  (ccWithB_fields (ch.compared .A snap.ccA) snap.ccB).1

theorem configured_csr_getLsbD (k : Nat) :
    (ch.configured snap).csr.getLsbD k = if k = 0 then snap.en else (ch.withModes snap).csr.getLsbD k := by
  obtain ⟨hcsr, -⟩ := withDivider_keeps ((ch.withModes snap).writeTop (snap.top.setWidth 32)) snap
  rw [show (ch.withModes snap).csr = ((ch.withModes snap).writeTop (snap.top.setWidth 32)).csr from rfl,
    ← hcsr]
  exact csrWithEnable_getLsbD _ snap.en k

theorem configured_top : (ch.configured snap).top = snap.top := by
  obtain ⟨-, -, htop, -⟩ := withDivider_keeps ((ch.withModes snap).writeTop (snap.top.setWidth 32)) snap
  exact htop.trans (setWidth_word_value16 snap.top)

theorem configured_div :
    (ch.configured snap).div =
      (((ch.withModes snap).writeTop (snap.top.setWidth 32)).withDivider snap).div := rfl

theorem onlyConfiguration_configured : OnlyConfiguration ch (ch.configured snap) := by
  obtain ⟨-, -, -, hdiv⟩ := withDivider_keeps ((ch.withModes snap).writeTop (snap.top.setWidth 32)) snap
  have hmodes : OnlyConfiguration ch (ch.withModes snap) :=
    ((onlyConfiguration_writeCsr ch _).trans (onlyConfiguration_writeCsr _ _)).trans
      (onlyConfiguration_writeCsr _ _)
  exact (((hmodes.trans (onlyConfiguration_writeTop _ _)).trans hdiv).trans
    ((onlyConfiguration_writeCc _ _).trans (onlyConfiguration_writeCc _ _))).trans
    (onlyConfiguration_writeCsr _ _)

theorem withDivider_of_malformed (h : snap.divInt = 0 ∨ 15 < snap.divFrac.toNat) :
    ch.withDivider snap = ch :=
  if_pos (dividerMalformed_iff.2 h)

theorem withDivider_of_wellFormed (hint : snap.divInt ≠ 0) (hfrac : snap.divFrac.toNat ≤ 15) :
    (ch.withDivider snap).divInt = snap.divInt ∧
      (ch.withDivider snap).divFrac = snap.divFrac.setWidth 4 := by
  have hm : ¬dividerMalformed snap.divInt snap.divFrac = true := by
    rw [dividerMalformed_iff]
    exact not_or.2 ⟨hint, Nat.not_lt.2 hfrac⟩
  rw [Channel.withDivider, if_neg hm]
  exact writeDiv_dividerWord ch snap.divInt snap.divFrac hfrac

end Configured

/-! ### A whole turn -/

section Turn

variable {body : OpBody} {c : ChannelId} {ch : Channel} {f : Word → Word} {k m : Nat} {s t : State}

/-- A read and a write of `CSR`, with the rest of the operation after them. -/
theorem EndsIn.rmw_csr (hread : ∀ tmp s, body k tmp s = readTo (.csr c) (k + 1) tmp s)
    (hwrite : ∀ tmp s, body (k + 1) tmp s = writeTo (.csr c) (f tmp.word) (k + 2) tmp s)
    (ht : ∀ tmp, EndsIn body m (k + 2, tmp) (s.setChan c (ch.writeCsr (f (ch.csr.setWidth 32)))) t)
    (tmp : Tmp) : EndsIn body (m + 2) (k, tmp) (s.setChan c ch) t := by
  refine .next (hread _ _) (.next (hwrite _ _) ?_)
  simp only [State.regWrite, State.regRead, State.chan_setChan_same, State.setChan_setChan]
  exact ht _

/-- The same of `CC`. -/
theorem EndsIn.rmw_cc (hread : ∀ tmp s, body k tmp s = readTo (.cc c) (k + 1) tmp s)
    (hwrite : ∀ tmp s, body (k + 1) tmp s = writeTo (.cc c) (f tmp.word) (k + 2) tmp s)
    (ht : ∀ tmp, EndsIn body m (k + 2, tmp) (s.setChan c (ch.writeCc (f ch.cc))) t)
    (tmp : Tmp) : EndsIn body (m + 2) (k, tmp) (s.setChan c ch) t := by
  refine .next (hread _ _) (.next (hwrite _ _) ?_)
  simp only [State.regWrite, State.regRead, State.chan_setChan_same, State.setChan_setChan]
  exact ht _

end Turn

section Configure

variable {c : ChannelId} {snap : Snapshot} {ch : Channel} {s t : State} {m : Nat}

/-- Place 8 and, unless the divider is malformed, place 9. -/
theorem configureBody_divider
    (ht : ∀ tmp, EndsIn (configureBody c snap) m (10, tmp) (s.setChan c (ch.withDivider snap)) t)
    (tmp : Tmp) : EndsIn (configureBody c snap) (m + 2) (8, tmp) (s.setChan c ch) t := by
  have ht := ht tmp
  unfold Channel.withDivider at ht
  cases hm : dividerMalformed snap.divInt snap.divFrac with
  | true =>
    have h8 : configureBody c snap 8 tmp (s.setChan c ch) = .next (10, tmp) (s.setChan c ch) := by
      simp only [configureBody, hm, if_true, goto]
    rw [hm, if_pos rfl] at ht
    exact (EndsIn.next h8 ht).mono (by omega)
  | false =>
    have h8 : configureBody c snap 8 tmp (s.setChan c ch) = .next (9, tmp) (s.setChan c ch) := by
      simp only [configureBody, hm, Bool.false_eq_true, if_false, goto]
    rw [hm, if_neg Bool.false_ne_true] at ht
    refine .next h8 (.next rfl ?_)
    simpa only [State.regWrite, State.chan_setChan_same, State.setChan_setChan] using ht

theorem configureBody_top
    (ht : ∀ tmp, EndsIn (configureBody c snap) m (8, tmp)
      (s.setChan c (ch.writeTop (snap.top.setWidth 32))) t)
    (tmp : Tmp) : EndsIn (configureBody c snap) (m + 1) (7, tmp) (s.setChan c ch) t := by
  refine .next rfl ?_
  simpa only [State.regWrite, State.chan_setChan_same, State.setChan_setChan] using ht tmp

/-- Places 1 to 6: the mode fields. -/
theorem configureBody_modes
    (ht : ∀ tmp, EndsIn (configureBody c snap) m (7, tmp) (s.setChan c (ch.withModes snap)) t)
    (tmp : Tmp) : EndsIn (configureBody c snap) (m + 6) (1, tmp) (s.setChan c ch) t :=
  .rmw_csr (f := fun t => csrWithPhCorrect t snap.phCorrect) (fun _ _ => rfl) (fun _ _ => rfl)
    (.rmw_csr (f := fun t => csrWithInvert t snap.invA snap.invB) (fun _ _ => rfl) (fun _ _ => rfl)
      (.rmw_csr (f := fun t => csrWithDivMode t snap.divMode) (fun _ _ => rfl) (fun _ _ => rfl) ht)) tmp

/-- Places 10 to 13: the compare values. -/
theorem configureBody_compares
    (ht : ∀ tmp, EndsIn (configureBody c snap) m (14, tmp) (s.setChan c (ch.withCompares snap)) t)
    (tmp : Tmp) : EndsIn (configureBody c snap) (m + 4) (10, tmp) (s.setChan c ch) t :=
  .rmw_cc (f := fun t => ccWithA t snap.ccA) (fun _ _ => rfl) (fun _ _ => rfl)
    (.rmw_cc (f := fun t => ccWithB t snap.ccB) (fun _ _ => rfl) (fun _ _ => rfl) ht) tmp

/-- Places 14 to 16: the enable bit and the response. -/
theorem configureBody_enable (tmp : Tmp) :
    EndsIn (configureBody c snap) 2 (14, tmp) (s.setChan c ch)
      ((s.setChan c (ch.withEn snap.en)).respond (.ok 0)) :=
  .rmw_csr (f := fun t => csrWithEnable t snap.en) (fun _ _ => rfl) (fun _ _ => rfl)
    (fun _ => .done rfl) tmp

/-- A turn of `configure` with room for its sixteen places. -/
theorem exec_configure (hs : s.Accepts) (hq : 15 ≤ s.quantum) :
    exec (.configure c snap) s =
      .next ((s.setChan c ((s.chan c).configured snap)).respond (.ok 0)) := by
  have hrun := configureBody_modes (s := s) (ch := s.chan c) (configureBody_top (configureBody_divider
    (configureBody_compares (configureBody_enable (c := c) (snap := snap))))) Tmp.zero
  rw [State.setChan_self] at hrun
  exact exec_of_endsIn rfl hs hrun hq

end Configure

/-! ### The statement -/

/-- Settles O26: the whole turn, and each place. -/
theorem configureAppliesTheSnapshot : Obligations.ConfigureAppliesTheSnapshot := by
  intro c snap s
  refine ⟨fun hs hq => ?_, fun hs hq => exec_micro_accepts rfl hs hq rfl,
    fun k tmp hs => ⟨?_, ?_, ?_, ?_, ?_, ?_, ?_, ?_, ?_, ?_, ?_, ?_, ?_⟩⟩
  · obtain ⟨hchan, hframe⟩ := setsChannel_respond s c ((s.chan c).configured snap)
    have hbit (k : Nat) (h0 : k ≠ 0) : ((s.chan c).configured snap).csr.getLsbD k = _ :=
      (configured_csr_getLsbD (s.chan c) snap k).trans
        ((if_neg h0).trans (withModes_csr_getLsbD (s.chan c) snap k))
    refine ⟨_, exec_configure hs hq, ?_⟩
    rw [hchan]
    exact ⟨configured_csr_getLsbD (s.chan c) snap 0, hbit 1 (by decide), hbit 2 (by decide),
      hbit 3 (by decide), divMode_eq (hbit 4 (by decide)) (hbit 5 (by decide)), configured_top _ snap,
      withCompares_ccA _ snap, withCompares_ccB _ snap, withDivider_of_wellFormed _ snap,
      fun hm => by rw [configured_div, withDivider_of_malformed _ snap hm]; rfl,
      ⟨hbit 6 (by decide), hbit 7 (by decide)⟩, onlyConfiguration_configured _ snap, hframe⟩
  · rintro (rfl | rfl | rfl)
    · exact exec_micro_next rfl hs rfl
    · exact exec_micro_next rfl hs rfl
    · exact exec_micro_next rfl hs rfl
  · rintro rfl
    rw [← csrWithPhCorrect_eq]
    exact exec_micro_next rfl hs rfl
  · rintro rfl
    rw [← csrWithInvert_eq]
    exact exec_micro_next rfl hs rfl
  · rintro rfl
    rw [← csrWithDivMode_eq]
    exact exec_micro_next rfl hs rfl
  · rintro rfl
    exact exec_micro_next rfl hs rfl
  · rintro rfl hint hfrac
    refine exec_micro_next rfl hs ?_
    have hm : ¬dividerMalformed snap.divInt snap.divFrac = true := by
      rw [dividerMalformed_iff]
      exact not_or.2 ⟨hint, Nat.not_lt.2 hfrac⟩
    simp only [configureBody, if_neg hm, goto]
  · rintro rfl hm
    refine exec_micro_next rfl hs ?_
    simp only [configureBody, if_pos (dividerMalformed_iff.2 hm), goto]
  · rintro rfl
    exact exec_micro_next rfl hs rfl
  · rintro (rfl | rfl)
    · exact exec_micro_next rfl hs rfl
    · exact exec_micro_next rfl hs rfl
  · rintro rfl
    exact exec_micro_next rfl hs rfl
  · rintro rfl
    exact exec_micro_next rfl hs rfl
  · rintro rfl
    rw [← csrWithEnable_eq]
    exact exec_micro_next rfl hs rfl
  · rintro rfl
    exact exec_micro_done rfl hs rfl

end Sys2Proof.Machine
end

section
/-! PROOFS. The steps of the timer array and the outputs (45_timer_array.md R190 to R198). A count is described
once, by its result; the events differ in when they count and in what they do to the channel first. -/

namespace Sys2Proof.Machine

open Sys2Proof

/-! ### When a channel runs -/

section Running

variable {ch : Channel}

theorem running_of_selfDriven (hen : ch.en = true) (h : ch.SelfDriven) : ch.running = true := by
  unfold Channel.running Channel.divEventPossible
  obtain h | ⟨h, hpin⟩ := h
  · simp only [hen, h, Bool.and_self]
  · simp only [hen, h, hpin, Bool.and_self]

theorem tickEnabled_of_selfDriven (hen : ch.en = true) (h : ch.SelfDriven) : ch.tickEnabled = true := by
  have hrun := running_of_selfDriven hen h
  unfold Channel.tickEnabled
  obtain h | ⟨h, -⟩ := h <;> rw [h] <;> exact hrun

theorem running_of_disabled (h : ch.en = false) : ch.running = false := by
  rw [Channel.running, h, Bool.false_and]

theorem tickEnabled_of_idle (h : ch.en = false ∨ (ch.divMode = .gatedHigh ∧ ch.pinBIn = false) ∨
    ch.divMode = .risingEdge ∨ ch.divMode = .fallingEdge) : ch.tickEnabled = false := by
  unfold Channel.tickEnabled
  obtain h | ⟨h, hpin⟩ | h | h := h
  · cases ch.divMode <;> first | exact running_of_disabled h | rfl
  · simp only [h, Channel.running, Channel.divEventPossible, hpin, Bool.and_false]
  · rw [h]
  · rw [h]

/-- In the edge modes a channel runs while it is enabled. -/
theorem edgeMatches_iff (level : Bool) : ch.edgeMatches level = true ↔ ch.EdgeCounts level := by
  unfold Channel.edgeMatches Channel.EdgeCounts
  cases ch.divMode <;> simp

theorem running_of_edgeCounts {level : Bool} (hen : ch.en = true) (h : ch.EdgeCounts level) :
    ch.running = true := by
  unfold Channel.running Channel.divEventPossible
  obtain ⟨h, -⟩ | ⟨h, -⟩ := h <;> simp only [hen, h, Bool.and_self]

end Running

/-! ### One count -/

section Count

variable {c : ChannelId} {s u : State}

/-- `u` shows a count what `s` does: the counter, the direction, the mode and the latches. -/
structure CountsAlike (c : ChannelId) (s u : State) : Prop where
  ctr : (u.chan c).ctr = (s.chan c).ctr
  dir : (u.chan c).dir = (s.chan c).dir
  result : (u.chan c).countResult u.counterStep = (s.chan c).countResult s.counterStep
  intr : u.intr = s.intr

/-- What a count leaves is what its result says. -/
theorem count_result (h : CountsAlike c s u) (hdiv : (u.chan c).divInt ≠ 0) {r : CountResult}
    (hr : (s.chan c).countResult s.counterStep = r) :
    ((u.count c).chan c).ctr = r.ctr ∧ ((u.count c).chan c).dir = r.dir ∧
      (u.count c).intr = if r.wrapped then s.intr ||| channelBit c else s.intr := by
  rw [State.count_intr hdiv, State.chan_count hdiv, if_pos rfl, h.intr, ← hr, ← h.result]
  exact ⟨rfl, rfl, rfl⟩

theorem countsTrailingEdge_count (h : CountsAlike c s u) (hdiv : (u.chan c).divInt ≠ 0)
    (hph : (s.chan c).phCorrect = false) : CountsTrailingEdge c s (u.count c) := by
  have hresult : (s.chan c).countResult s.counterStep =
      trailingEdgeStep (s.chan c).ctr (s.chan c).top (s.chan c).dir :=
    if_neg (by rw [hph]; exact Bool.false_ne_true)
  by_cases htop : (s.chan c).ctr = (s.chan c).top
  · obtain ⟨hctr, hdir, hintr⟩ := count_result h hdiv (hresult.trans (if_pos htop))
    exact ⟨hdir, fun _ => ⟨hctr, hintr⟩, fun hne => absurd htop hne⟩
  · obtain ⟨hctr, hdir, hintr⟩ := count_result h hdiv (hresult.trans (if_neg htop))
    refine ⟨hdir, fun heq => absurd heq htop, fun _ => ⟨?_, hintr⟩⟩
    rw [hctr, BitVec.toNat_add]
    rfl

theorem countsPhaseCorrect_count (h : CountsAlike c s u) (hdiv : (u.chan c).divInt ≠ 0)
    (hph : (s.chan c).phCorrect = true) : CountsPhaseCorrect c s (u.count c) := by
  have hresult : (s.chan c).countResult s.counterStep =
      s.counterStep.apply (s.chan c).ctr (s.chan c).top (s.chan c).dir := if_pos hph
  refine ⟨fun hstep => ?_, fun hstep => ?_⟩
  · rw [hstep] at hresult
    exact count_result h hdiv (hstep ▸ hresult)
  · have href : (s.chan c).countResult s.counterStep =
        referenceCounterStep (s.chan c).ctr (s.chan c).top (s.chan c).dir := by
      rw [hresult, hstep]; rfl
    have hlt := (s.chan c).ctr.isLt
    have htop := (s.chan c).top.isLt
    unfold referenceCounterStep at href
    refine ⟨fun hdir hbelow => ?_, fun hdir hat => ?_, fun hdir hpos => ?_, fun hdir hzero => ?_⟩
    · simp only [hdir, if_pos hbelow] at href
      obtain ⟨hctr, hdir', hintr⟩ := count_result h hdiv href
      refine ⟨?_, hdir', hintr⟩
      rw [hctr, BitVec.toNat_add]
      show ((s.chan c).ctr.toNat + 1) % 65536 = _
      omega
    · simp only [hdir, if_neg (Nat.not_lt.2 hat)] at href
      exact count_result h hdiv href
    · simp only [hdir, if_pos hpos] at href
      obtain ⟨hctr, hdir', hintr⟩ := count_result h hdiv href
      refine ⟨?_, hdir', hintr⟩
      rw [hctr, BitVec.toNat_sub]
      show (65536 - 1 + (s.chan c).ctr.toNat) % 65536 + 1 = _
      omega
    · have hz : ¬0 < (s.chan c).ctr.toNat := by rw [hzero]; exact Nat.lt_irrefl 0
      simp only [hdir, if_neg hz] at href
      obtain ⟨hctr, hdir', hintr⟩ := count_result h hdiv href
      exact ⟨hctr.trans hzero, hdir', hintr⟩

theorem counts_count (h : CountsAlike c s u) (hdiv : (u.chan c).divInt ≠ 0) : Counts c s (u.count c) :=
  ⟨countsTrailingEdge_count h hdiv, countsPhaseCorrect_count h hdiv⟩

theorem CountsAlike.refl (c : ChannelId) (s : State) : CountsAlike c s s := ⟨rfl, rfl, rfl, rfl⟩

/-- A channel replaced by one with the same counter, top, direction and mode. -/
theorem countsAlike_setChan {ch : Channel} (hctr : ch.ctr = (s.chan c).ctr) (htop : ch.top = (s.chan c).top)
    (hdir : ch.dir = (s.chan c).dir) (hph : ch.phCorrect = (s.chan c).phCorrect) :
    CountsAlike c s (s.setChan c ch) := by
  refine ⟨?_, ?_, ?_, rfl⟩ <;> rw [State.chan_setChan_same]
  · exact hctr
  · exact hdir
  · rw [Channel.countResult, Channel.countResult, hctr, htop, hdir, hph]
    rfl

end Count

/-! ### The events -/

theorem event_tick_of_enabled {c : ChannelId} {s : State} (h : (s.chan c).tickEnabled = true) :
    s.event (.tick c) = s.count c := if_pos h

theorem event_tick_of_not_enabled {c : ChannelId} {s : State} (h : (s.chan c).tickEnabled = false) :
    s.event (.tick c) = s := if_neg (by rw [h]; exact Bool.false_ne_true)

/-- Settles O54. -/
theorem trailingEdgeTick : Obligations.TrailingEdgeTick := by
  intro c s hdiv
  refine ⟨fun hen hself hph => ?_, fun h => event_tick_of_not_enabled (tickEnabled_of_idle h)⟩
  rw [event_tick_of_enabled (tickEnabled_of_selfDriven hen hself)]
  exact countsTrailingEdge_count (.refl c s) hdiv hph

/-- Settles O55. -/
theorem phaseCorrectTick : Obligations.PhaseCorrectTick := by
  intro c s hdiv hen hself hph
  rw [event_tick_of_enabled (tickEnabled_of_selfDriven hen hself)]
  exact countsPhaseCorrect_count (.refl c s) hdiv hph

/-- Settles O56: the level is stored in either case; the count comes only with the matching edge of an enabled
channel. -/
theorem pinBCountsOnlyAMatchingEdge : Obligations.PinBCountsOnlyAMatchingEdge := by
  intro c level counts s hdiv
  have hdiv' : ((s.setChan c ((s.chan c).withPinB level)).chan c).divInt ≠ 0 := by
    rwa [State.chan_setChan_same]
  by_cases h : (counts && (s.chan c).edgeMatches level && (s.chan c).running) = true
  · have hevent : s.event (.pinB c level counts) = (s.setChan c ((s.chan c).withPinB level)).count c :=
      if_pos h
    have hchan : ((s.setChan c ((s.chan c).withPinB level)).count c).chan c =
        ((s.chan c).withPinB level).counted s.counterStep := by
      rw [State.chan_count hdiv', if_pos rfl, State.chan_setChan_same, State.setChan_counterStep]
    rw [Bool.and_eq_true, Bool.and_eq_true, edgeMatches_iff] at h
    obtain ⟨⟨hcounts, hedge⟩, hrun⟩ := h
    rw [hevent, hchan]
    refine ⟨rfl, rfl, fun hno => ?_, fun _ _ _ => counts_count (countsAlike_setChan rfl rfl rfl rfl) hdiv'⟩
    obtain hen | hc | he := hno
    · rw [running_of_disabled hen] at hrun; cases hrun
    · rw [hc] at hcounts; cases hcounts
    · exact absurd hedge he
  · have hevent : s.event (.pinB c level counts) = s.setChan c ((s.chan c).withPinB level) := if_neg h
    rw [hevent, State.chan_setChan_same]
    refine ⟨rfl, rfl, fun _ => ⟨rfl, rfl, rfl⟩, fun hen hcounts hedge => absurd ?_ h⟩
    rw [hcounts, (edgeMatches_iff level).2 hedge, running_of_edgeCounts hen hedge]
    rfl

theorem clearRet_csr_getLsbD (ch : Channel) (k : Nat) :
    ch.clearRet.csr.getLsbD k = (decide (k ≠ 6) && ch.csr.getLsbD k) := by
  by_cases h : k < 8
  · interval_cases k <;> simp [Channel.clearRet]
  · simp [Channel.clearRet, BitVec.getLsbD_of_ge _ _ (Nat.not_lt.1 h)]

theorem clearAdv_csr_getLsbD (ch : Channel) (k : Nat) :
    ch.clearAdv.csr.getLsbD k = (decide (k ≠ 7) && ch.csr.getLsbD k) := by
  by_cases h : k < 8
  · interval_cases k <;> simp [Channel.clearAdv]
  · simp [Channel.clearAdv, BitVec.getLsbD_of_ge _ _ (Nat.not_lt.1 h)]

theorem retAckEnabled_iff (ch : Channel) :
    ch.retAckEnabled = true ↔ ch.phRet = true ∧ ch.running = true := by
  rw [Channel.retAckEnabled, Bool.and_eq_true]

theorem advAckEnabled_iff (ch : Channel) :
    ch.advAckEnabled = true ↔ ch.phAdv = true ∧ ch.running = true ∧ 16 < ch.dividerValue16 := by
  rw [Channel.advAckEnabled, Bool.and_eq_true, Bool.and_eq_true, decide_eq_true_eq, and_assoc]

/-- Settles O57. -/
theorem acknowledgementsClearTheirRequest : Obligations.AcknowledgementsClearTheirRequest := by
  intro c s hdiv
  refine ⟨fun hret hrun => ?_, fun h => if_neg ?_, fun hadv hrun hdivider => ?_, fun h => if_neg ?_⟩
  · have hevent : s.event (.retAck c) = s.setChan c (s.chan c).clearRet :=
      if_pos ((retAckEnabled_iff _).2 ⟨hret, hrun⟩)
    have hbit (k : Nat) := clearRet_csr_getLsbD (s.chan c) k
    rw [hevent, State.chan_setChan_same]
    refine ⟨hbit 6, fun k hk => ?_, rfl, rfl⟩
    rw [hbit, decide_eq_true hk, Bool.true_and]
  · rw [retAckEnabled_iff]
    rintro ⟨hret, hrun⟩
    simp [hret, hrun] at h
  · have hevent : s.event (.advAck c) = (s.setChan c (s.chan c).clearAdv).count c :=
      if_pos ((advAckEnabled_iff _).2 ⟨hadv, hrun, hdivider⟩)
    have hdiv' : ((s.setChan c (s.chan c).clearAdv).chan c).divInt ≠ 0 := by
      rwa [State.chan_setChan_same]
    have hcsr : (((s.setChan c (s.chan c).clearAdv).count c).chan c).csr = (s.chan c).clearAdv.csr := by
      rw [State.chan_count hdiv', if_pos rfl, State.chan_setChan_same]
      rfl
    have hbit (k : Nat) := clearAdv_csr_getLsbD (s.chan c) k
    have hph : (s.chan c).clearAdv.phCorrect = (s.chan c).phCorrect := hbit 1
    rw [hevent, Channel.phAdv, hcsr]
    refine ⟨hbit 7, fun k hk => ?_, counts_count (countsAlike_setChan rfl rfl rfl hph) hdiv'⟩
    rw [hbit, decide_eq_true hk, Bool.true_and]
  · rw [advAckEnabled_iff]
    rintro ⟨hadv, hrun, hdivider⟩
    obtain h | h | h := h
    · simp [hadv] at h
    · simp [hrun] at h
    · omega

/-! ### The outputs -/

/-- Settles O60: outputs that are determined compare the counter with the compare value. -/
theorem outputsCompareCounterAndValue : Obligations.OutputsCompareCounterAndValue := by
  intro c s hen hph hcalm
  have hdet : (s.chan c).outputsDetermined = true := by
    rw [Channel.outputsDetermined, hen, hcalm]; rfl
  have hlevel (v : BitVec 16) : (s.chan c).outputLevel s.counterStep v =
      decide ((s.chan c).ctr.toNat < v.toNat) := by
    simp only [Channel.outputLevel, hph]
  have houtA : s.outA c = (decide ((s.chan c).ctr.toNat < (s.chan c).ccA.toNat) ^^ (s.chan c).aInv) := by
    rw [State.outA, if_pos hdet, hlevel]
  refine ⟨houtA, fun hmode => ?_, fun hmode => ?_, fun hzero hinv => ?_, fun hctr habove hinv => ?_⟩
  · rw [State.outB, hmode]
    simp only [if_pos hdet, hlevel]
  · unfold State.outB
    cases h : (s.chan c).divMode <;> first | exact absurd h hmode | rfl
  · have hnever : ¬(s.chan c).ctr.toNat < (0 : BitVec 16).toNat := Nat.not_lt_zero _
    rw [houtA, hzero, hinv, decide_eq_false hnever, Bool.xor_false]
  · rw [houtA, hinv, decide_eq_true (Nat.lt_of_le_of_lt hctr habove), Bool.xor_false]

end Sys2Proof.Machine
end

section
/-! PROOFS. The phase handshakes (43_channel_controller.md R142, R143; 70_reset_and_hazards.md R243, R244). The
two operations differ in their request bit alone, so each fact is stated once over the bit. -/

namespace Sys2Proof.Machine

open Sys2Proof

/-! ### The two handshakes as one -/

/-- Operation `i` is the handshake of channel `c` with the request bit `bit` of `CSR`. -/
inductive Handshake : Instr → ChannelId → Nat → Prop where
  | advance (c : ChannelId) : Handshake (.advancePhase c) c 7
  | retard (c : ChannelId) : Handshake (.retardPhase c) c 6

/-- The request bit, as a poll tests it. -/
def requestBit (bit : Nat) (u : Word) : Bool := u.getLsbD bit

section Handshake

variable {i : Instr} {c : ChannelId} {bit : Nat}

theorem Handshake.bit_lt (h : Handshake i c bit) : bit < 8 := by cases h <;> decide

theorem Handshake.body (h : Handshake i c bit) :
    bodyOf i = some (handshakeBody c (fun t => t ||| 1#32 <<< bit) (requestBit bit)) := by
  cases h <;> rfl

/-- The request written, bit by bit. -/
theorem Handshake.request_getLsbD (h : Handshake i c bit) (ch : Channel) (k : Nat) :
    (ch.writeCsr (ch.csr.setWidth 32 ||| 1#32 <<< bit)).csr.getLsbD k =
      (decide (k = bit) || ch.csr.getLsbD k) := by
  cases h with
  | advance => exact csrWithAdvance_getLsbD ch k
  | retard => exact csrWithRetard_getLsbD ch k

/-- The poll reads the request bit of the channel. -/
theorem Handshake.regRead (h : Handshake i c bit) (s : State) :
    requestBit bit (s.regRead (.csr c)) = (s.chan c).csr.getLsbD bit := by
  have hbit := h.bit_lt
  rw [requestBit, State.regRead, BitVec.getLsbD_setWidth, decide_eq_true (by omega), Bool.true_and]

end Handshake

/-! ### The turns -/

section Turns

variable {i : Instr} {c : ChannelId} {bit : Nat} {s : State} (h : Handshake i c bit)
include h

/-- Two micro-steps of an accepting turn: the read and the request. -/
theorem exec_handshake_request (hs : s.Accepts) (hq : s.quantum = 1) :
    exec i s = .next ((s.setChan c ((s.chan c).writeCsr ((s.chan c).csr.setWidth 32 ||| 1#32 <<< bit))).setSeq
      (.inOp i 3 { Tmp.zero with word := s.regRead (.csr c) })) := by
  rw [exec_of_bodyOf h.body, runOp_of_accepts hs, hq]
  rfl

/-- The request is the one register write. -/
theorem exec_handshake_request_frame (hctx : s.ctx ≠ .interrupt) (hseq : s.seq = .idle) (hq : s.quantum = 1) :
    ∃ t tmp, exec i s = .next t ∧ (t.chan c).csr.getLsbD bit = true ∧
      (∀ k, k ≠ bit → (t.chan c).csr.getLsbD k = (s.chan c).csr.getLsbD k) ∧
      OnlyCsr (s.chan c) (t.chan c) ∧ KeepsOtherChannels c s t ∧ KeepsInterrupts s t ∧
      t.seq = .inOp i 3 tmp ∧ t.responses = s.responses := by
  have hbit (k : Nat) := h.request_getLsbD (s.chan c) k
  generalize hch : (s.chan c).writeCsr ((s.chan c).csr.setWidth 32 ||| 1#32 <<< bit) = ch at hbit
  obtain ⟨hother, -⟩ := keeps_setChan s c ch
  have hctx' : (s.setChan c ch).ctx ≠ .interrupt := hctx
  refine ⟨_, { Tmp.zero with word := s.regRead (.csr c) }, exec_handshake_request h ⟨hctx, hseq⟩ hq, ?_⟩
  rw [hch, State.chan_setSeq, State.chan_setChan_same]
  refine ⟨by rw [hbit, decide_eq_true rfl, Bool.true_or], fun k hk => ?_, hch ▸ onlyCsr_writeCsr _ _,
    fun d hd => (State.chan_setSeq _ _ d).trans (hother d hd), ?_, State.seq_setSeq_inOp hctx' i 3 _,
    State.setSeq_responses _ _⟩
  · rw [hbit, decide_eq_false hk, Bool.false_or]
  · simp [KeepsInterrupts]

/-- A poll that reads the bit clear ends the operation. -/
theorem exec_handshake_clear {tmp : Tmp} (hseq : s.seq = .inOp i 3 tmp) (hq : 2 ≤ s.quantum)
    (hclear : (s.chan c).csr.getLsbD bit = false) : exec i s = .next (s.respond (.ok 0)) := by
  have h4 : handshakeBody c (fun t => t ||| 1#32 <<< bit) (requestBit bit) 4
      { tmp with word := s.regRead (.csr c) } s = .next (5, { tmp with word := s.regRead (.csr c) }) s := by
    simp only [handshakeBody, goto, h.regRead, hclear, Bool.false_eq_true, if_false]
  have hend : EndsIn (handshakeBody c (fun t => t ||| 1#32 <<< bit) (requestBit bit)) 2 (3, tmp) s
      (s.respond (.ok 0)) := .next rfl (.next h4 (.done rfl))
  rw [exec_of_bodyOf h.body, runOp_of_inside hseq, hend _ _ hq]

/-- A poll that reads the bit set stays in its loop. -/
theorem exec_handshake_pending {k : Nat} {tmp : Tmp} (hseq : s.seq = .inOp i k tmp)
    (hk : k = 3 ∨ (k = 4 ∧ requestBit bit tmp.word = true))
    (hset : (s.chan c).csr.getLsbD bit = true) :
    ∃ j u, (j = 3 ∨ (j = 4 ∧ requestBit bit u.word = true)) ∧ exec i s = .next (s.setSeq (.inOp i j u)) := by
  rw [exec_of_bodyOf h.body]
  obtain ⟨j, u, hj, hrun⟩ := runOp_handshakeBody_pending (request := fun t => t ||| 1#32 <<< bit)
    (pending := requestBit bit) ((h.regRead s).trans hset) hseq hk
  exact ⟨j, u, hj, congrArg _ hrun⟩

end Turns

/-- Settles O37. -/
theorem phaseOperationsRequestAndPoll : Obligations.PhaseOperationsRequestAndPoll := by
  intro c s hctx
  refine ⟨fun hseq hq => ⟨exec_handshake_request_frame (.advance c) hctx hseq hq,
    exec_handshake_request_frame (.retard c) hctx hseq hq⟩, fun tmp hq => ⟨fun hseq hclear => ?_,
    fun hseq hclear => ?_⟩, fun i bit hi => ?_⟩
  · exact ⟨_, exec_handshake_clear (.advance c) hseq hq hclear, finished_respond _ rfl rfl,
      keepsBank_respond s _⟩
  · exact ⟨_, exec_handshake_clear (.retard c) hseq hq hclear, finished_respond _ rfl rfl,
      keepsBank_respond s _⟩
  · have h : Handshake i c bit := by
      obtain ⟨rfl, rfl⟩ | ⟨rfl, rfl⟩ := hi
      · exact .advance c
      · exact .retard c
    refine ⟨fun k tmp hseq hk hset => ?_, fun k tmp hs => ⟨?_, ?_, ?_, ?_, ?_⟩⟩
    · obtain ⟨j, u, hj, he⟩ := exec_handshake_pending h hseq hk hset
      exact ⟨_, j, u, he, State.seq_setSeq_inOp hctx i j u, hj, State.setSeq_responses s _,
        ⟨State.chan_setSeq s _, by simp [KeepsInterrupts]⟩, by simp [KeepsSurroundings]⟩
    · rintro rfl
      exact exec_micro_next h.body hs rfl
    · rintro rfl
      exact exec_micro_next h.body hs rfl
    · rintro rfl hbit
      refine exec_micro_next h.body hs ?_
      have hpending : requestBit bit tmp.word = true := hbit
      simp only [handshakeBody, goto, hpending, if_true]
    · rintro rfl hbit
      refine exec_micro_next h.body hs ?_
      have hpending : requestBit bit tmp.word = false := hbit
      simp only [handshakeBody, goto, hpending, Bool.false_eq_true, if_false]
    · rintro rfl
      exact exec_micro_done h.body hs rfl

/-! ### A step while the foreground polls -/

/-- What a step that is no `TakeIrq` leaves of channel `c`, seen from the request bit: the channel as it was,
or as an event of the timer array leaves it. -/
inductive ChannelAfter (c : ChannelId) (s t : State) : Prop where
  | same (h : t.chan c = s.chan c)
  | event (e : Event) (he : e.IsOf c) (h : t.chan c = e.chanAfter s.counterStep (s.chan c))

/-- An event other than `TakeIrq` steps no sequencer. -/
theorem event_frame {e : Event} (he : e ≠ .takeIrq) (s : State) :
    (s.event e).seqFg = s.seqFg ∧ (s.event e).seqIrq = s.seqIrq ∧
      (s.event e).responses = s.responses ∧ (∀ d, (s.chan d).KeepsSettings ((s.event e).chan d)) ∧
      ∀ c, ChannelAfter c s (s.event e) := by
  obtain ⟨d, hd⟩ | rfl | ⟨hz, rfl⟩ := event_cases e
  · have hwrites := writesChannel_event hd s
    obtain ⟨_, _, _, hrest⟩ := hwrites.rest
    refine ⟨by rw [hrest], by rw [hrest], by rw [hrest], fun c => ?_, fun c => ?_⟩
    · rw [hwrites.chan_eq_ite c]
      split
      · next hc => rw [hc]; exact .chanAfter e _ _
      · exact .refl _
    · by_cases hc : c = d
      · rw [hc]; exact .event e hd hwrites.own
      · exact .same (hwrites.others c hc)
  · exact absurd rfl he
  · exact ⟨rfl, rfl, rfl, fun _ => .refl _, fun _ => .same rfl⟩

theorem divInt_of_keepsSettings {a b : Channel} (h : a.KeepsSettings b) : b.divInt = a.divInt := by
  rw [Channel.divInt, h.div]; rfl

/-- With no divider integer part 0 an event is no fault. -/
theorem event_faultLog {s : State} (hdiv : ∀ d, (s.chan d).divInt ≠ 0) (e : Event) :
    (s.event e).faultLog = s.faultLog := by
  obtain ⟨d, hd⟩ | rfl | ⟨hz, rfl⟩ := event_cases e
  · rw [event_eq_prepare_count hd]
    split
    · have hprepare : (e.prepare (s.chan d)).divInt ≠ 0 := by
        rw [divInt_of_keepsSettings (.prepare e (s.chan d))]
        exact hdiv d
      rw [State.count, State.chan_setChan_same, if_neg hprepare, State.latchWrap_faultLog,
        State.setChan_faultLog, State.setChan_faultLog]
    · rfl
  · show (if s.takeIrqEnabled then s.takeIrq else s).faultLog = s.faultLog
    split <;> rfl
  · rfl

/-- The foreground polls with the request bit set and nothing in its way. -/
structure PollsSet (i : Instr) (c : ChannelId) (bit : Nat) (s : State) : Prop where
  irq   : s.seqIrq = .idle
  polls : s.Polls i (requestBit bit)
  set   : (s.chan c).csr.getLsbD bit = true

/-- `t` follows `s` by a step in which the poll went on. -/
structure PollGoesOn (i : Instr) (c : ChannelId) (bit : Nat) (s t : State) : Prop where
  faultless : t.Faultless
  irq       : t.seqIrq = .idle
  polls     : t.Polls i (requestBit bit)
  responses : t.responses = s.responses
  settings  : ∀ d, (s.chan d).KeepsSettings (t.chan d)
  channel   : ChannelAfter c s t

section Polling

variable {i : Instr} {c : ChannelId} {bit : Nat} {s t : State} (h : Handshake i c bit)

/-- A turn begun is no matter to the poll. -/
theorem PollsSet.beginTurn (hp : PollsSet i c bit s) (rest : List Turn) (n : Nat) :
    PollsSet i c bit (s.beginTurn rest n) :=
  ⟨hp.irq, hp.polls, hp.set⟩

include h

/-- The CPU's turn goes round in the loop and changes nothing but the place. -/
theorem PollsSet.afterCpuTurn (hp : PollsSet i c bit s) :
    ∃ j u, (j = 3 ∨ (j = 4 ∧ requestBit bit u.word = true)) ∧
      cpuTurn s = .next { s with seqFg := .inOp i j u } := by
  obtain ⟨hirq, ⟨k, tmp, hfg, hk⟩, hset⟩ := hp
  have hctx : s.ctx = .foreground := State.ctx_foreground hirq (by rw [hfg]; rfl)
  obtain ⟨j, u, hj, he⟩ := exec_handshake_pending h ((State.seq_of_foreground hctx).trans hfg) hk hset
  rw [State.setSeq_of_foreground hctx] at he
  exact ⟨j, u, hj, (cpuTurn_foreground_inOp hctx hfg).trans he⟩

/-- A step while the foreground polls with the bit set, of whatever agent but the entry to the dispatcher. -/
theorem PollsSet.afterStep (hp : PollsSet i c bit s) (hf : s.Faultless) (hdiv : ∀ d, (s.chan d).divInt ≠ 0)
    (hsched : ∀ rest, s.schedule ≠ .event .takeIrq :: rest) :
    ∃ t, step s = .next t ∧ PollGoesOn i c bit s t := by
  have hcpu {rest : List Turn} {n : Nat} (hstep : step s = cpuTurn (s.beginTurn rest n)) :
      ∃ t, step s = .next t ∧ PollGoesOn i c bit s t := by
    obtain ⟨j, u, hj, hturn⟩ := (hp.beginTurn rest n).afterCpuTurn h
    exact ⟨_, hstep.trans hturn, hf, hp.irq, ⟨j, u, rfl, hj⟩, rfl, fun _ => .refl _, .same rfl⟩
  cases hs : s.schedule with
  | nil => exact hcpu (step_cpuTurn hf (.inr ⟨hs, rfl, rfl⟩))
  | cons tr rest =>
    cases tr with
    | cpu n => exact hcpu (step_cpuTurn hf (.inl hs))
    | event e =>
      have he : e ≠ .takeIrq := fun he => hsched rest (he ▸ hs)
      obtain ⟨hfg, hirq, hresp, hkeeps, hafter⟩ := event_frame he (s.beginTurn rest s.quantum)
      have hfault := event_faultLog (s := s.beginTurn rest s.quantum) hdiv e
      obtain ⟨k, tmp, hplace, hk⟩ := hp.polls
      refine ⟨_, step_eventTurn hf hs, hfault.trans hf, hirq.trans hp.irq,
        ⟨k, tmp, hfg.trans hplace, hk⟩, hresp, hkeeps, ?_⟩
      obtain hsame | ⟨e', he', hchan⟩ := hafter c
      · exact .same hsame
      · exact .event e' he' hchan

end Polling

/-! ### Requests that are not acknowledged -/

section Requests

variable {ch : Channel} (e : Event) (x : CounterStepChoice)

/-- A count leaves `CSR`. -/
theorem chanAfter_csr : (e.chanAfter x ch).csr = (e.prepare ch).csr := by
  unfold Event.chanAfter
  split
  · unfold Channel.afterCount
    split <;> rfl
  · rfl

theorem chanAfter_phAdv (h : ch.advAckEnabled = false) : (e.chanAfter x ch).phAdv = ch.phAdv := by
  have hno : ¬ch.advAckEnabled = true := by rw [h]; exact Bool.false_ne_true
  rw [Channel.phAdv, chanAfter_csr]
  cases e with
  | advAck => simp only [Event.prepare, if_neg hno]; rfl
  | retAck =>
    simp only [Event.prepare]
    split
    · exact clearRet_csr_getLsbD ch 7
    · rfl
  | _ => rfl

theorem chanAfter_phRet (h : ch.retAckEnabled = false) : (e.chanAfter x ch).phRet = ch.phRet := by
  have hno : ¬ch.retAckEnabled = true := by rw [h]; exact Bool.false_ne_true
  rw [Channel.phRet, chanAfter_csr]
  cases e with
  | retAck => simp only [Event.prepare, if_neg hno]; rfl
  | advAck =>
    simp only [Event.prepare]
    split
    · exact clearAdv_csr_getLsbD ch 6
    · rfl
  | _ => rfl

end Requests

section Stuck

variable {c : ChannelId} {s t : State}

theorem ChannelAfter.phAdv (h : ChannelAfter c s t) (hack : (s.chan c).advAckEnabled = false) :
    (t.chan c).phAdv = (s.chan c).phAdv := by
  obtain hsame | ⟨e, -, hchan⟩ := h
  · rw [hsame]
  · rw [hchan, chanAfter_phAdv e _ hack]

theorem ChannelAfter.phRet (h : ChannelAfter c s t) (hack : (s.chan c).retAckEnabled = false) :
    (t.chan c).phRet = (s.chan c).phRet := by
  obtain hsame | ⟨e, -, hchan⟩ := h
  · rw [hsame]
  · rw [hchan, chanAfter_phRet e _ hack]

theorem stopped_of_keepsSettings (h : (s.chan c).KeepsSettings (t.chan c)) : t.stopped c = s.stopped c :=
  congrArg Bool.not (h.csr 0 (by decide))

theorem dividerValue16_of_keepsSettings {a b : Channel} (h : a.KeepsSettings b) :
    b.dividerValue16 = a.dividerValue16 := by
  rw [Channel.dividerValue16, divInt_of_keepsSettings h, Channel.divFrac, h.div]; rfl

theorem running_of_stopped (h : s.stopped c = true) : (s.chan c).running = false :=
  running_of_disabled (by rwa [State.stopped, Bool.not_eq_true'] at h)

end Stuck

/-- Settles O38: a step keeps the settings that make the acknowledgement impossible, and so the request bit,
and so the poll. -/
theorem unacknowledgedHandshakeNeverEnds : Obligations.UnacknowledgedHandshakeNeverEnds := by
  intro c s hsched
  refine ⟨fun ⟨hf, hirq, hdiv, hpolls, hset, hstuck⟩ => ?_, fun ⟨hf, hirq, hdiv, hpolls, hset, hstop⟩ => ?_⟩
  · have hack : (s.chan c).advAckEnabled = false := by
      rw [Bool.eq_false_iff, ne_eq, advAckEnabled_iff]
      rintro ⟨-, hrun, hdivider⟩
      obtain hstop | hone := hstuck
      · rw [running_of_stopped hstop] at hrun; cases hrun
      · omega
    have hp : PollsSet (.advancePhase c) c 7 s := ⟨hirq, hpolls, hset⟩
    obtain ⟨t, hstep, hnext⟩ := hp.afterStep (.advance c) hf hdiv hsched
    refine ⟨t, hstep, ⟨hnext.faultless, hnext.irq, fun d => ?_, hnext.polls,
      (hnext.channel.phAdv hack).trans hset, ?_⟩, hnext.responses⟩
    · rw [divInt_of_keepsSettings (hnext.settings d)]
      exact hdiv d
    · rwa [stopped_of_keepsSettings (hnext.settings c), dividerValue16_of_keepsSettings (hnext.settings c)]
  · have hack : (s.chan c).retAckEnabled = false := by
      rw [Channel.retAckEnabled, running_of_stopped hstop, Bool.and_false]
    have hp : PollsSet (.retardPhase c) c 6 s := ⟨hirq, hpolls, hset⟩
    obtain ⟨t, hstep, hnext⟩ := hp.afterStep (.retard c) hf hdiv hsched
    refine ⟨t, hstep, ⟨hnext.faultless, hnext.irq, fun d => ?_, hnext.polls,
      (hnext.channel.phRet hack).trans hset, ?_⟩, hnext.responses⟩
    · rw [divInt_of_keepsSettings (hnext.settings d)]
      exact hdiv d
    · rwa [stopped_of_keepsSettings (hnext.settings c)]

end Sys2Proof.Machine
end

section
/-! PROOFS. The dispatcher (44_interrupt_ops.md R178, 60_exceptions.md R218 to R221): its micro-steps one by one,
its entry, and a whole dispatch with silent handlers, with and without a registered handler. -/

namespace Sys2Proof.Machine

open Sys2Proof

/-! ### A turn of `handle_interrupt` -/

section Turn

variable {s t u : State} {d q : Dispatch}

theorem exec_handleInterrupt (s : State) : exec .handleInterrupt s = .next (handleInterruptTurn s) := rfl

/-- Presented by a running handler. -/
theorem exec_handleInterrupt_of_handler (hctx : s.ctx = .handler) (hseq : s.seqHandler = .idle) :
    exec .handleInterrupt s = .next (s.raise .reentrancy) := by
  have hidle : s.seq = .idle := (State.seq_of_handler hctx).trans hseq
  rw [exec_handleInterrupt, handleInterruptTurn, hctx, hidle]

/-- Inside a dispatch, outside its handler phase, the dispatcher runs. -/
theorem exec_handleInterrupt_of_dispatch (hd : s.currentDispatch = some d) (hp : d.phase ≠ .handler) :
    exec .handleInterrupt s = .next (runMicros suspendDispatch dispatchBody s.quantum d s) := by
  have hrun : runDispatch s = runMicros suspendDispatch dispatchBody s.quantum d s := by
    rw [runDispatch, hd]
  have hctx : s.ctx ≠ .handler := fun hc => by
    obtain ⟨e, he, hpe⟩ := ctx_eq_handler_iff.1 hc
    exact hp (Option.some.inj (hd.symm.trans he) ▸ hpe)
  rw [exec_handleInterrupt, ← hrun, handleInterruptTurn]
  obtain ⟨hc, hirq, -⟩ | ⟨hc, -⟩ | ⟨hc, -⟩ := s.ctx_cases
  · have hfg : s.seqFg = .dispatch d := by
      rw [State.currentDispatch, hirq] at hd
      cases hfg : s.seqFg <;> rw [hfg] at hd <;> cases hd
      rfl
    rw [hc, State.seq_of_foreground hc, hfg]
  · rw [hc]
  · exact absurd hc hctx

/-- A turn of one micro-step that leads to a next place. -/
theorem exec_dispatch_next (hd : s.currentDispatch = some d) (hq : s.quantum = 0) (hp : d.phase ≠ .handler)
    (hm : dispatchBody d s = .next q u) : exec .handleInterrupt s = dispatchComesTo q u := by
  rw [exec_handleInterrupt_of_dispatch hd hp, hq, runMicros_next_zero hm]
  rfl

theorem exec_dispatch_yield (hd : s.currentDispatch = some d) (hp : d.phase ≠ .handler)
    (hm : dispatchBody d s = .yield q u) : exec .handleInterrupt s = dispatchComesTo q u := by
  rw [exec_handleInterrupt_of_dispatch hd hp, runMicros_yield hm]
  rfl

theorem exec_dispatch_done (hd : s.currentDispatch = some d) (hp : d.phase ≠ .handler)
    (hm : dispatchBody d s = .done t) : exec .handleInterrupt s = .next t := by
  rw [exec_handleInterrupt_of_dispatch hd hp, runMicros_done hm]

end Turn

/-- Settles O51. -/
theorem handlerMayNotReenterTheDispatcher : Obligations.HandlerMayNotReenterTheDispatcher :=
  fun s hctx hseq => ⟨_, exec_handleInterrupt_of_handler hctx hseq, State.raise_faultLog s _,
    keepsBank_raise s _, State.raise_handler s _, State.raise_responses s _, State.raise_firedLog s _⟩

/-! ### The entry -/

theorem not_irq_of_not_pending {s : State} (h : ∀ c, s.pending c = false) : s.irq = false := by
  have hzero : s.ints = 0 := by
    apply BitVec.eq_of_getLsbD_eq
    intro k hk
    exact (h ⟨k, hk⟩).trans BitVec.getLsbD_zero.symm
  rw [State.irq, hzero]
  rfl

theorem takeIrqEnabled_iff (s : State) :
    s.takeIrqEnabled = true ↔
      (∃ c, s.pending c = true) ∧ s.seqIrq = .idle ∧ s.seqFg.inDispatch = false := by
  rw [State.takeIrqEnabled, Bool.and_eq_true, Bool.not_eq_true', State.dispatching, Option.isSome_eq_false_iff,
    Option.isNone_iff_eq_none]
  constructor
  · rintro ⟨hirq, hnone⟩
    refine ⟨?_, ?_, inDispatch_false_of_currentDispatch hnone⟩
    · by_contra hno
      have hline := not_irq_of_not_pending fun c => Bool.eq_false_iff.2 fun hc => hno ⟨c, hc⟩
      rw [hline] at hirq
      cases hirq
    · cases hi : s.seqIrq with
      | idle => rfl
      | dispatch d => rw [State.currentDispatch, hi] at hnone; cases hnone
  · rintro ⟨⟨c, hc⟩, hi, hf⟩
    exact ⟨irq_of_pending hc, currentDispatch_of_inDispatch_false hi hf⟩

/-- Settles O52: the turn is `State.takeIrq`, or nothing. -/
theorem takeIrqEntersAndSavesNothing : Obligations.TakeIrqEntersAndSavesNothing := by
  intro s rest hf hsched
  have hstep := step_eventTurn hf hsched
  have henabled : (s.beginTurn rest s.quantum).takeIrqEnabled = s.takeIrqEnabled := rfl
  refine ⟨fun hc hi hfg => ?_, fun hno => ?_⟩
  · rw [hstep, State.event, henabled, if_pos ((takeIrqEnabled_iff s).2 ⟨hc, hi, hfg⟩)]
    rfl
  · have hfalse : ¬s.takeIrqEnabled = true := by
      rw [takeIrqEnabled_iff]
      rintro ⟨⟨c, hc⟩, hi, hfg⟩
      obtain h | h | h := hno
      · rw [h c] at hc; cases hc
      · exact h hi
      · rw [h] at hfg; cases hfg
    rw [hstep, State.event, henabled, if_neg hfalse]
    rfl

/-! ### The micro-steps -/

theorem nextPending_of_isFirstFrom {snapshot : BitVec 8} {k : Nat} {c : ChannelId}
    (h : IsFirstFrom snapshot k c) : nextPending snapshot k = some c := by
  obtain ⟨hk, hc, hfirst⟩ := h
  cases hn : nextPending snapshot k with
  | none => rw [nextPending_none hn c hk] at hc; cases hc
  | some e =>
    obtain ⟨hke, he⟩ := nextPending_spec hn
    have hle : c ≤ e := Nat.le_of_not_lt fun hlt => by rw [hfirst e hke hlt] at he; cases he
    have hmem : c ∈ channelsFrom snapshot k := by
      rw [channelsFrom, List.mem_filter, decide_eq_true hk, hc]
      exact ⟨List.mem_finRange c, rfl⟩
    rw [nextPending_eq_head?] at hn
    obtain ⟨l, hl⟩ := List.head?_eq_some_iff.1 hn
    have hasc : (e :: l).Pairwise (· < ·) :=
      hl ▸ (List.pairwise_lt_finRange 8).sublist List.filter_sublist
    rw [hl, List.mem_cons] at hmem
    obtain rfl | hmem := hmem
    · rfl
    · exact absurd ((List.pairwise_cons.1 hasc).1 c hmem) (not_lt.2 hle)

theorem from_of_isFirstFrom {d : Dispatch} {k : Nat} {c : ChannelId} (h : IsFirstFrom d.snapshot k c) :
    d.from k = { d with chan := c, phase := .notify } := by
  rw [Dispatch.from, nextPending_of_isFirstFrom h]

theorem from_of_noneFrom {d : Dispatch} {k : Nat} (h : NoneFrom d.snapshot k) :
    d.from k = { d with phase := .respond } := by
  have hnone : nextPending d.snapshot k = none := by
    cases hn : nextPending d.snapshot k with
    | none => rfl
    | some e =>
      obtain ⟨hke, he⟩ := nextPending_spec hn
      rw [h e hke] at he
      cases he
  rw [Dispatch.from, hnone]

section Handler

variable {s t : State} {d : Dispatch}

/-- A handler that has issued all and returns leads to step 2b; any other stays. -/
theorem currentDispatch_handlerReturn (hctx : s.ctx = .handler) (hd : s.currentDispatch = some d) :
    (s.handlerWords = [] → s.handlerEnd = .returns →
      s.handlerReturn.currentDispatch = some { d with phase := .clearRaw }) ∧
    (s.handlerWords ≠ [] ∨ s.handlerEnd ≠ .returns → s.handlerReturn.currentDispatch = some d) := by
  refine ⟨fun hw hr => ?_, fun hstay => ?_⟩
  · rw [State.handlerReturn_of_handler hctx hw hr hd, State.currentDispatch_setDispatch]
  · rw [State.handlerReturn_of_stays hstay, hd]

/-- A turn of an operation inside the handler phase: what it responds is the response of a handler's command,
after which the handler returns or stays; without a response the dispatch stays. -/
theorem exec_in_handler (hd : s.currentDispatch = some d) (hctx : s.ctx = .handler) {i : Instr}
    (he : exec i s = .next t) :
    (t.responses = s.responses ∧ t.currentDispatch = some d) ∨
      (t.responses ≠ s.responses ∧ t.seqHandler = .idle ∧
        (s.handlerWords = [] → s.handlerEnd = .returns →
          t.currentDispatch = some { d with phase := .clearRaw }) ∧
        (s.handlerWords ≠ [] ∨ s.handlerEnd ≠ .returns → t.currentDispatch = some d)) := by
  have hseq (u : State) (q : Seq) (hu : u.ctx = .handler) (hcd : u.currentDispatch = some d) :
      (u.setSeq q).currentDispatch = some d := by
    rw [State.setSeq_of_handler hu]
    exact hcd
  by_cases hi : i = .handleInterrupt
  · subst hi
    cases exec_handleInterrupt_ends he with
    | raised => exact .inl ⟨State.raise_responses s _, hseq _ _ hctx hd⟩
    | ignored => exact .inl ⟨rfl, hd⟩
    | entered h => rw [hctx] at h; cases h
    | ran _ h => exact absurd hctx h
  · obtain rfl | ⟨u, hsame, -, hend⟩ := exec_ends he hi (R := fun _ => True) trivial
      (fun _ _ _ _ _ => trivial) (fun _ _ _ _ => trivial)
    · exact .inl ⟨rfl, hd⟩
    · have hu : u.ctx = .handler := hsame.ctx.trans hctx
      have hcd : u.currentDispatch = some d := hsame.currentDispatch.trans hd
      cases hend with
      | suspended k tmp =>
        exact .inl ⟨(State.setSeq_responses u _).trans hsame.responses, hseq u _ hu hcd⟩
      | raised f => exact .inl ⟨(State.raise_responses u f).trans hsame.responses, hseq _ _ hu hcd⟩
      | responded a =>
        have hctx' : ({ u with
            seqHandler := .idle, responses := u.responses ++ [(.handler, a.word)] } : State).ctx = .handler := hu
        obtain ⟨hreturns, hstays⟩ := currentDispatch_handlerReturn hctx' hcd
        rw [← State.respond_of_handler hu] at hreturns hstays
        refine .inr ⟨?_, State.respond_seqHandler_of_handler hu a, fun hw hr => ?_, fun hstay => ?_⟩
        · rw [State.respond_responses, hsame.responses]
          simp
        · exact hreturns (hsame.handlerWords.trans hw) (hsame.handlerEnd.trans hr)
        · rw [← hsame.handlerWords, ← hsame.handlerEnd] at hstay
          exact hstays hstay

end Handler

theorem setWidth_word_byte (x : BitVec 8) : (x.setWidth 32).setWidth 8 = x := by
  rw [BitVec.setWidth_setWidth_of_le _ (by decide), BitVec.setWidth_eq]

theorem regRead_ints_byte (s : State) : (s.regRead .ints).setWidth 8 = s.ints := setWidth_word_byte s.ints

theorem regWrite_intr_channelBit (s : State) (c : ChannelId) :
    s.regWrite .intr ((channelBit c).setWidth 32) = { s with intr := s.intr &&& ~~~(1#8 <<< c.val) } := by
  rw [State.regWrite, setWidth_word_byte, channelBit]

theorem regWrite_intf_withoutBits (s : State) (t : Word) (c : ChannelId) :
    s.regWrite .intf (wideWithoutBits t (channelBit c)) =
      { s with intf := t.setWidth 8 &&& ~~~(1#8 <<< c.val) } := by
  rw [State.regWrite, wideWithoutBits, setWidth_word_byte, channelBit]

/-- Settles O50. -/
theorem dispatcherNotifiesThenClearsThenUnforces : Obligations.DispatcherNotifiesThenClearsThenUnforces := by
  intro d s hd hq
  have hnext {q : Dispatch} {u : State} (p : DispatchPhase) (hp : d.phase = p) (hne : p ≠ .handler)
      (hm : dispatchBody d s = .next q u) : exec .handleInterrupt s = dispatchComesTo q u :=
    exec_dispatch_next hd hq (hp ▸ hne) hm
  refine ⟨fun hp => ⟨fun c hc => ?_, fun hc => ?_⟩, fun hp => ⟨fun hh => ?_, fun h hh hcall => ?_,
    fun h call hh hcall hne => ?_⟩, fun h call rest hb hscript => ?_, fun h hb => ?_, fun hp => ?_, fun hp => ?_,
    fun hp => ?_, fun hp => ⟨fun c hc => ?_, fun hc => ?_⟩, fun hp => ?_⟩
  · refine hnext _ hp nofun ?_
    simp only [dispatchBody, hp, regRead_ints_byte]
    rw [from_of_isFirstFrom hc]
  · refine hnext _ hp nofun ?_
    simp only [dispatchBody, hp, regRead_ints_byte]
    rw [from_of_noneFrom hc]
  · refine hnext _ hp nofun ?_
    simp only [dispatchBody, hp, notifyHandler, hh]
  · have hm : dispatchBody d s = .next { d with phase := .clearRaw } (s.recordCall h d.chan) := by
      simp only [dispatchBody, hp, notifyHandler, hh, runHandler, if_pos hcall]
    exact hnext _ hp nofun hm
  · subst hcall
    have hm : dispatchBody d s = .yield { d with phase := .handler }
        { s.recordCall h d.chan with
          handlerWords := (s.handlerCall h d.chan).words
          handlerEnd := (s.handlerCall h d.chan).ending } := by
      simp only [dispatchBody, hp, notifyHandler, hh, runHandler, if_neg hne]
    exact exec_dispatch_yield hd (by rw [hp]; nofun) hm
  · simp only [State.handlerCall, State.scriptAfterCall, hb, hscript]
    exact ⟨rfl, rfl⟩
  · simp only [State.handlerCall, hb]
  · have hctx := ctx_eq_handler_iff.2 ⟨d, hd, hp⟩
    refine ⟨hctx, fun i t he => ?_⟩
    obtain ⟨hsame, hcd⟩ | ⟨hne, hrest⟩ := exec_in_handler hd hctx he
    · exact ⟨fun _ => hcd, fun hne => absurd hsame hne⟩
    · exact ⟨fun hsame => absurd hsame hne, fun _ => hrest⟩
  · refine hnext _ hp nofun ?_
    simp only [dispatchBody, hp]
    rw [regWrite_intr_channelBit]
  · refine hnext _ hp nofun ?_
    simp only [dispatchBody, hp]
  · refine hnext _ hp nofun ?_
    simp only [dispatchBody, hp]
    rw [from_of_isFirstFrom hc, regWrite_intf_withoutBits]
  · refine hnext _ hp nofun ?_
    simp only [dispatchBody, hp]
    rw [from_of_noneFrom hc, regWrite_intf_withoutBits]
  · refine ⟨_, exec_dispatch_done hd (hp ▸ nofun) ?_, frame_respond s _⟩
    simp only [dispatchBody, hp]

/-! ### A whole dispatch, with silent handlers -/

/-- Step 2a with a silent handler, or with none. -/
def State.notify (s : State) (c : ChannelId) : State :=
  match s.handler with
  | none => s
  | some h => s.recordCall h c

/-- Steps 2a to 2d of R178 for channel `c`, with a silent handler or none. -/
def State.serveChannel (s : State) (c : ChannelId) : State :=
  ((s.notify c).regWrite .intr ((channelBit c).setWidth 32)).unforce c

/-- The calls that the slot asks for. -/
def callsOf (slot : Option Handle) (l : List ChannelId) : List (Handle × ChannelId) :=
  match slot with
  | none => []
  | some h => l.map fun c => (h, c)

section Serve

variable {s : State}

theorem serves_notify (s : State) (c : ChannelId) : Serves s (s.notify c) := by
  unfold State.notify
  split
  · exact .refl s
  · exact .recordCall s _ c

theorem notify_intr (c : ChannelId) : (s.notify c).intr = s.intr ∧ (s.notify c).intf = s.intf := by
  unfold State.notify
  split <;> exact ⟨rfl, rfl⟩

theorem State.HandlersSilent.notify (hs : s.HandlersSilent) (c : ChannelId) : (s.notify c).HandlersSilent := by
  unfold State.notify
  split
  · exact hs
  · exact hs.recordCall _ c

theorem serves_serveChannel (s : State) (c : ChannelId) : Serves s (s.serveChannel c) :=
  ((serves_notify s c).trans (.clearRaw _ _)).trans (.unforce _ _)

theorem serveChannel_handler (c : ChannelId) : (s.serveChannel c).handler = s.handler :=
  (serves_serveChannel s c).handler

theorem State.HandlersSilent.serveChannel (hs : s.HandlersSilent) (c : ChannelId) :
    (s.serveChannel c).HandlersSilent :=
  hs.notify c

theorem serveChannel_firedLog (c : ChannelId) :
    (s.serveChannel c).firedLog = s.firedLog ++ callsOf s.handler [c] := by
  show (s.notify c).firedLog = _
  unfold State.notify callsOf
  cases s.handler with
  | none => exact (List.append_nil _).symm
  | some h => rfl

/-- The service clears the latch and the forced bit of its channel alone. -/
theorem serveChannel_getLsbD (c d : ChannelId) :
    (s.serveChannel c).intr.getLsbD d.val = (d != c && s.intr.getLsbD d.val) ∧
      (s.serveChannel c).intf.getLsbD d.val = (d != c && s.intf.getLsbD d.val) := by
  obtain ⟨hintr, hintf⟩ := notify_intr (s := s) c
  rw [← hintr, ← hintf]
  exact ⟨clearLatch_getLsbD (s.notify c) c d, clearBit_getLsbD (s.notify c).intf c d⟩

theorem serves_foldl (l : List ChannelId) : ∀ s : State, Serves s (l.foldl State.serveChannel s) := by
  induction l with
  | nil => exact .refl
  | cons c l ih => exact fun s => (serves_serveChannel s c).trans (ih _)

theorem callsOf_cons (slot : Option Handle) (c : ChannelId) (l : List ChannelId) :
    callsOf slot (c :: l) = callsOf slot [c] ++ callsOf slot l := by
  cases slot <;> rfl

theorem foldl_serveChannel_firedLog (l : List ChannelId) :
    ∀ s : State, (l.foldl State.serveChannel s).firedLog = s.firedLog ++ callsOf s.handler l := by
  induction l with
  | nil => intro s; cases h : s.handler <;> exact (List.append_nil _).symm
  | cons c l ih =>
    intro s
    rw [List.foldl_cons, ih, serveChannel_firedLog, serveChannel_handler, callsOf_cons _ c l, List.append_assoc]

theorem foldl_serveChannel_getLsbD (l : List ChannelId) (d : ChannelId) :
    ∀ s : State, (l.foldl State.serveChannel s).intr.getLsbD d.val =
        (decide (d ∉ l) && s.intr.getLsbD d.val) ∧
      (l.foldl State.serveChannel s).intf.getLsbD d.val = (decide (d ∉ l) && s.intf.getLsbD d.val) := by
  induction l with
  | nil => simp
  | cons c l ih =>
    intro s
    obtain ⟨hintr, hintf⟩ := ih (s.serveChannel c)
    obtain ⟨hintr', hintf'⟩ := serveChannel_getLsbD (s := s) c d
    rw [List.foldl_cons, hintr, hintf, hintr', hintf']
    by_cases hd : d = c <;> simp [hd, bne, Bool.beq_eq_decide_eq]

/-! ### The turn -/

theorem dispatchBody_notify {d : Dispatch} (hp : d.phase = .notify) (hs : s.HandlersSilent) :
    dispatchBody d s = .next { d with phase := .clearRaw } (s.notify d.chan) := by
  cases hh : s.handler with
  | none => simp only [dispatchBody, hp, notifyHandler, State.notify, hh]
  | some h => simp only [dispatchBody_notify_of_silent hp hh hs, State.notify, hh]

/-- From the step to its next channel on, a dispatch serves the rest of its snapshot and responds, in a turn
with four further micro-steps for each channel. -/
theorem runMicros_dispatch_serves (l : List ChannelId) :
    ∀ (d : Dispatch) (k n : Nat) (s : State), channelsFrom d.snapshot k = l → 4 * l.length ≤ n →
      s.HandlersSilent →
      runMicros suspendDispatch dispatchBody n (d.from k) s = (l.foldl State.serveChannel s).respond (.ok 0) := by
  induction l with
  | nil =>
    intro d k n s hl _ _
    have hfrom : d.from k = { d with phase := .respond } := by
      simp [Dispatch.from, nextPending_eq_head?, hl]
    rw [hfrom]
    exact runMicros_done rfl
  | cons c l ih =>
    intro d k n s hl hn hs
    have hfrom : d.from k = { d with chan := c, phase := .notify } := by
      simp [Dispatch.from, nextPending_eq_head?, hl]
    rw [List.length_cons] at hn
    obtain ⟨m, rfl⟩ := Nat.exists_eq_add_of_le' (show 4 ≤ n by omega)
    rw [hfrom, runMicros_next_succ (dispatchBody_notify rfl hs), List.foldl_cons]
    refine ih { d with chan := c, phase := .unforceWrite, tmp := (s.notify c).regRead .intf } (c.val + 1) m
      (s.serveChannel c) ?_ (by omega) (hs.serveChannel c)
    exact channelsFrom_succ_of_cons hl

/-- From its step 1 on, a dispatch serves the pending channels and responds, in 34 micro-steps at most. -/
theorem runMicros_dispatch_start {n : Nat} (hs : s.HandlersSilent) (hn : 33 ≤ n) :
    runMicros suspendDispatch dispatchBody n Dispatch.start s =
      (s.pendingChannels.foldl State.serveChannel s).respond (.ok 0) := by
  obtain ⟨m, rfl⟩ := Nat.exists_eq_add_of_le' (show 1 ≤ n by omega)
  have hlen : s.pendingChannels.length ≤ 8 := List.length_filter_le _ _
  have hfrom : channelsFrom ((s.regRead .ints).setWidth 8) 0 = s.pendingChannels := by
    rw [regRead_ints_byte, channelsFrom_ints_zero]
  exact runMicros_dispatch_serves _ { Dispatch.start with snapshot := (s.regRead .ints).setWidth 8 } 0 m s hfrom
    (by omega) hs

/-- A dispatch presented by an idle foreground, or entered by `TakeIrq`. -/
theorem exec_handleInterrupt_serves
    (h : (s.seqIrq = .idle ∧ s.seqFg = .idle) ∨ s.seqIrq = .dispatch Dispatch.start) (hs : s.HandlersSilent)
    (hq : 34 ≤ s.quantum) :
    exec .handleInterrupt s = .next ((s.pendingChannels.foldl State.serveChannel s).respond (.ok 0)) := by
  obtain ⟨hirq, hfg⟩ | hirq := h
  · obtain ⟨hctx, hseq⟩ := foreground_of_idle hirq hfg
    obtain ⟨n, hn⟩ := Nat.exists_eq_add_of_le' (show 1 ≤ s.quantum by omega)
    have henter : enterDispatch s = runMicros suspendDispatch dispatchBody n Dispatch.start s := by
      rw [enterDispatch, hn]
    rw [exec_handleInterrupt, handleInterruptTurn, hctx, hseq]
    exact congrArg _ (henter.trans (runMicros_dispatch_start hs (by omega)))
  · have hd : s.currentDispatch = some Dispatch.start := by rw [State.currentDispatch, hirq]
    rw [exec_handleInterrupt_of_dispatch hd nofun, runMicros_dispatch_start hs (by omega)]

/-- Bits cleared for the channels of the status, as a word. -/
theorem clear_pendingChannels {x y : BitVec 8}
    (h : ∀ d : ChannelId, y.getLsbD d.val = (decide (d ∉ s.pendingChannels) && x.getLsbD d.val)) :
    y = x &&& ~~~s.ints := by
  apply BitVec.eq_of_getLsbD_eq
  intro k hk
  have hmem : decide ((⟨k, hk⟩ : ChannelId) ∉ s.pendingChannels) = !s.ints.getLsbD k := by
    simp only [mem_pendingChannels, State.pending, decide_not, Bool.decide_eq_true]
  rw [BitVec.getLsbD_and, BitVec.getLsbD_not, decide_eq_true hk, Bool.true_and, Bool.and_comm]
  exact (h ⟨k, hk⟩).trans (congrArg (· && x.getLsbD k) hmem)

end Serve

/-- Settles O48. -/
theorem dispatchServesEveryPendingChannel : Obligations.DispatchServesEveryPendingChannel := by
  intro s h hs hq
  have hserves := serves_foldl s.pendingChannels s
  have hbits := fun d => foldl_serveChannel_getLsbD s.pendingChannels d s
  have hfired := foldl_serveChannel_firedLog s.pendingChannels s
  refine ⟨_, exec_handleInterrupt_serves h hs hq, ?_⟩
  generalize s.pendingChannels.foldl State.serveChannel s = u at hserves hbits hfired ⊢
  have hresp : u.responses = s.responses := by rw [hserves.eq]
  have hsched : u.schedule = s.schedule := by rw [hserves.eq]
  have hclock : u.sysClkHz = s.sysClkHz := by rw [hserves.eq]
  refine ⟨finished_respond _ hserves.ctx hresp, ?_, ?_, ?_, ?_, fun c => ?_, ?_, ?_, ?_, ?_, ?_⟩
  · rw [State.respond_firedLog, hfired]
    rfl
  · rw [State.respond_intr]
    exact clear_pendingChannels fun d => (hbits d).1
  · rw [State.respond_intf]
    exact clear_pendingChannels fun d => (hbits d).2
  · rw [State.respond_inte, hserves.inte]
  · rw [State.chan_respond, State.chan_congr hserves.chans]
  · rw [State.respond_handler, hserves.handler]
  · rw [State.respond_faultLog, hserves.faultLog]
  · rw [State.respond_port, hserves.port]
  · rw [State.respond_schedule, hsched]
  · rw [State.respond_sysClkHz, hclock]

end Sys2Proof.Machine
end

section
/-! PROOFS. A phase handshake ends in every fair run (45_timer_array.md R190, R196, R197). While the request bit is
set the poll goes on, and the acknowledgement stays enabled, so fairness brings it; it clears the bit, which
nothing sets again; and each later turn of the CPU brings the poll nearer to its end. -/

namespace Sys2Proof.Machine

open Sys2Proof

/-! ### The end of the poll -/

/-- The places of a handshake from the poll on, by how many micro-steps they are from the end once the request
bit reads clear. -/
inductive PollAt (bit : Nat) : Nat → Nat × Tmp → Prop where
  | respond (tmp : Tmp) : PollAt bit 1 (5, tmp)
  | clear (tmp : Tmp) (h : requestBit bit tmp.word = false) : PollAt bit 2 (4, tmp)
  | read (tmp : Tmp) : PollAt bit 3 (3, tmp)
  | set (tmp : Tmp) (h : requestBit bit tmp.word = true) : PollAt bit 4 (4, tmp)

theorem pollAt_of_polls {bit k : Nat} {tmp : Tmp} (hk : k = 3 ∨ (k = 4 ∧ requestBit bit tmp.word = true)) :
    ∃ r, PollAt bit r (k, tmp) := by
  obtain rfl | ⟨rfl, hw⟩ := hk
  · exact ⟨3, .read tmp⟩
  · exact ⟨4, .set tmp hw⟩

section Poll

variable {i : Instr} {c : ChannelId} {bit : Nat} {s : State} (h : Handshake i c bit)
  (hclear : (s.chan c).csr.getLsbD bit = false)
include h hclear

/-- A micro-step with the bit clear comes nearer to the end, or is it. -/
theorem handshakeBody_nearer {request : Word → Word} {r : Nat} {p : Nat × Tmp} (hp : PollAt bit r p) :
    handshakeBody c request (requestBit bit) p.1 p.2 s = .done (s.respond (.ok 0)) ∨
      ∃ q r', r' < r ∧ PollAt bit r' q ∧
        handshakeBody c request (requestBit bit) p.1 p.2 s = .next q s := by
  cases hp with
  | respond tmp => exact .inl rfl
  | clear tmp hw =>
    refine .inr ⟨(5, tmp), 1, by omega, .respond tmp, ?_⟩
    simp only [handshakeBody, goto, hw, Bool.false_eq_true, if_false]
  | read tmp => exact .inr ⟨_, 2, by omega, .clear _ ((h.regRead s).trans hclear), rfl⟩
  | set tmp hw =>
    refine .inr ⟨(3, tmp), 3, by omega, .read tmp, ?_⟩
    simp only [handshakeBody, goto, hw, if_true]

/-- So is a turn. -/
theorem runMicros_handshake_nearer {request : Word → Word} (n : Nat) : ∀ {r : Nat} {p : Nat × Tmp},
    PollAt bit r p →
      let t := runMicros (suspendOp i) (fun p s => handshakeBody c request (requestBit bit) p.1 p.2 s) n p s
      t = s.respond (.ok 0) ∨ ∃ q r', r' < r ∧ PollAt bit r' q ∧ t = suspendOp i q s := by
  induction n with
  | zero =>
    intro r p hp
    obtain hdone | ⟨q, r', hr, hq, hnext⟩ := handshakeBody_nearer h hclear (request := request) hp
    · exact .inl (runMicros_done hdone)
    · exact .inr ⟨q, r', hr, hq, runMicros_next_zero hnext⟩
  | succ n ih =>
    intro r p hp
    obtain hdone | ⟨q, r', hr, hq, hnext⟩ := handshakeBody_nearer h hclear (request := request) hp
    · exact .inl (runMicros_done hdone)
    · rw [runMicros_next_succ (body := fun p s => handshakeBody c request (requestBit bit) p.1 p.2 s) hnext]
      obtain hend | ⟨q', r'', hr', hq', hend⟩ := ih hq
      · exact .inl hend
      · exact .inr ⟨q', r'', by omega, hq', hend⟩

end Poll

/-- The foreground is inside the poll of a handshake, or past it, at distance `r` from the end, with nothing in
its way and the request bit clear. -/
structure PollsClear (i : Instr) (c : ChannelId) (bit : Nat) (r : Nat) (s : State) : Prop where
  irq   : s.seqIrq = .idle
  place : ∃ k tmp, s.seqFg = .inOp i k tmp ∧ PollAt bit r (k, tmp)
  clear : (s.chan c).csr.getLsbD bit = false

section Clear

variable {i : Instr} {c : ChannelId} {bit r : Nat} {s t : State} (h : Handshake i c bit)

/-- A turn begun is no matter to the poll. -/
theorem PollsClear.beginTurn (hp : PollsClear i c bit r s) (tr : Turn) (n : Nat) :
    PollsClear i c bit r (({ s with schedule := [tr] } : State).beginTurn [] n) :=
  ⟨hp.irq, hp.place, hp.clear⟩

include h

/-- A CPU turn ends the operation or brings it nearer to its end. -/
theorem PollsClear.afterCpuTurn (hp : PollsClear i c bit r s) (ht : cpuTurn s = .next t) :
    (t.seqFg = .idle ∧ (t.chan c).csr.getLsbD bit = false) ∨ ∃ r', r' < r ∧ PollsClear i c bit r' t := by
  obtain ⟨hirq, ⟨k, tmp, hfg, hk⟩, hclear⟩ := hp
  have hctx : s.ctx = .foreground := State.ctx_foreground hirq (by rw [hfg]; rfl)
  rw [cpuTurn_foreground_inOp hctx hfg, exec_of_bodyOf h.body, Host.Outcome.next.injEq,
    runOp_of_inside ((State.seq_of_foreground hctx).trans hfg)] at ht
  subst ht
  obtain hend | ⟨q, r', hr, hq, hend⟩ := runMicros_handshake_nearer h hclear s.quantum hk
  · rw [hend, State.chan_respond, State.respond_of_foreground hctx]
    exact .inl ⟨rfl, hclear⟩
  · refine .inr ⟨r', hr, ?_⟩
    rw [hend, suspendOp, State.setSeq_of_foreground hctx]
    exact ⟨hirq, ⟨q.1, q.2, rfl, hq⟩, hclear⟩

/-- The timer array clears requests and makes none. -/
theorem Handshake.request_of_keepsSettings {a b : Channel} (hk : a.KeepsSettings b)
    (hclear : a.csr.getLsbD bit = false) : b.csr.getLsbD bit = false := by
  rw [Bool.eq_false_iff] at hclear ⊢
  cases h with
  | advance => exact fun hb => hclear (hk.phAdv hb)
  | retard => exact fun hb => hclear (hk.phRet hb)

theorem PollsClear.afterEvent (hp : PollsClear i c bit r s) {e : Event} (he : e ≠ .takeIrq) :
    PollsClear i c bit r (s.event e) := by
  obtain ⟨hfg, hirq, -, hkeeps, -⟩ := event_frame he s
  obtain ⟨k, tmp, hplace, hk⟩ := hp.place
  exact ⟨hirq.trans hp.irq, ⟨k, tmp, hfg.trans hplace, hk⟩, h.request_of_keepsSettings (hkeeps c) hp.clear⟩

end Clear

/-! ### Runs -/

section Run

variable {turns : Nat → Turn} {run : Nat → State} (hrun : IsRun turns run)
include hrun

/-- A run of which no fault ends has recorded none. -/
theorem IsRun.faultless (n : Nat) : ({ run n with schedule := [turns n] } : State).Faultless :=
  (step_cases (hrun n)).1

theorem IsRun.cpu {n more : Nat} (ht : turns n = .cpu more) :
    cpuTurn (({ run n with schedule := [turns n] } : State).beginTurn [] more) =
      .next (run (n + 1)) := by
  rw [← step_cpuTurn (hrun.faultless n) (.inl (by rw [ht]))]
  exact hrun n

theorem IsRun.event {n : Nat} {e : Event} (ht : turns n = .event e) :
    run (n + 1) =
      (({ run n with schedule := [turns n] } : State).beginTurn [] (run n).quantum).event e := by
  have hstep := step_eventTurn (rest := []) (e := e) (hrun.faultless n) (by rw [ht])
  exact (Host.Outcome.next.inj (hstep.symm.trans (hrun n))).symm

variable {i : Instr} {c : ChannelId} {bit : Nat} (h : Handshake i c bit)
  (hirq : ∀ n, turns n ≠ .event .takeIrq)
include h hirq

/-- A step with the bit clear ends the operation, or keeps the poll, nearer to its end if it was the CPU's. -/
theorem IsRun.clear_step {n r : Nat} (hp : PollsClear i c bit r (run n)) :
    ((run (n + 1)).seqFg = .idle ∧ ((run (n + 1)).chan c).csr.getLsbD bit = false) ∨
      ∃ r', r' ≤ r ∧ PollsClear i c bit r' (run (n + 1)) ∧ ((∃ more, turns n = .cpu more) → r' < r) := by
  cases ht : turns n with
  | cpu more =>
    have hp' := hp.beginTurn (turns n) more
    obtain hidle | ⟨r', hr, hnear⟩ := hp'.afterCpuTurn h (hrun.cpu ht)
    · exact .inl hidle
    · exact .inr ⟨r', hr.le, hnear, fun _ => hr⟩
  | event e =>
    have hp' := hp.beginTurn (turns n) (run n).quantum
    have hevent := hp'.afterEvent h (e := e) fun he => hirq n (he ▸ ht)
    rw [← hrun.event ht] at hevent
    exact .inr ⟨r, Nat.le_refl r, hevent, nofun⟩

/-- So the poll has ended, or is no further from its end, at every later point. -/
theorem IsRun.clear_waits {n r : Nat} (hp : PollsClear i c bit r (run n)) (k : Nat) :
    (∃ m, (run m).seqFg = .idle ∧ ((run m).chan c).csr.getLsbD bit = false) ∨
      ∃ r', r' ≤ r ∧ PollsClear i c bit r' (run (n + k)) := by
  induction k with
  | zero => exact .inr ⟨r, Nat.le_refl r, hp⟩
  | succ k ih =>
    obtain hend | ⟨r', hr, hp'⟩ := ih
    · exact .inl hend
    · obtain hidle | ⟨r'', hr', hp'', -⟩ := hrun.clear_step h hirq hp'
      · exact .inl ⟨_, hidle⟩
      · exact .inr ⟨r'', hr'.trans hr, hp''⟩

/-- With the bit clear the CPU's fairness ends the poll. -/
theorem IsRun.clear_ends (hcpu : CpuFair turns) (r : Nat) : ∀ n, PollsClear i c bit r (run n) →
    ∃ m, (run m).seqFg = .idle ∧ ((run m).chan c).csr.getLsbD bit = false := by
  induction r using Nat.strongRecOn with
  | ind r ih =>
    intro n hp
    obtain ⟨m, more, hm, hturn⟩ := hcpu n
    obtain hend | ⟨r', hr, hp'⟩ := hrun.clear_waits h hirq hp (m - n)
    · exact hend
    · rw [Nat.add_sub_cancel' hm] at hp'
      obtain hidle | ⟨r'', -, hp'', hnear⟩ := hrun.clear_step h hirq hp'
      · exact ⟨_, hidle⟩
      · exact ih r'' ((hnear ⟨more, hturn⟩).trans_le hr) _ hp''

/-- A step with the bit set keeps the poll; the bit may have been cleared. -/
theorem IsRun.set_step {n : Nat} (hp : PollsSet i c bit (run n)) :
    PollsSet i c bit (run (n + 1)) ∨ ∃ r, PollsClear i c bit r (run (n + 1)) := by
  cases ht : turns n with
  | cpu more =>
    have hp' : PollsSet i c bit (({ run n with schedule := [turns n] } : State).beginTurn [] more) :=
      ⟨hp.irq, hp.polls, hp.set⟩
    obtain ⟨j, u, hj, hturn⟩ := hp'.afterCpuTurn h
    rw [hrun.cpu ht, Host.Outcome.next.injEq] at hturn
    rw [hturn]
    exact .inl ⟨hp.irq, ⟨j, u, rfl, hj⟩, hp.set⟩
  | event e =>
    obtain ⟨hfg, hseq, -, -, -⟩ := event_frame (e := e) (fun he => hirq n (he ▸ ht))
      (({ run n with schedule := [turns n] } : State).beginTurn [] (run n).quantum)
    rw [← hrun.event ht] at hfg hseq
    obtain ⟨k, tmp, hplace, hk⟩ := hp.polls
    cases hbit : ((run (n + 1)).chan c).csr.getLsbD bit with
    | true => exact .inl ⟨hseq.trans hp.irq, ⟨k, tmp, hfg.trans hplace, hk⟩, hbit⟩
    | false => exact .inr ((pollAt_of_polls hk).imp fun r hr =>
        ⟨hseq.trans hp.irq, ⟨k, tmp, hfg.trans hplace, hr⟩, hbit⟩)

/-- A handshake ends if the bit does not stay set for ever. -/
theorem IsRun.handshake_ends (hcpu : CpuFair turns) (hstart : (run 0).seqIrq = .idle)
    (hpolls : (run 0).Polls i (requestBit bit))
    (hack : (∀ n, PollsSet i c bit (run n)) → ∃ n, ((run n).chan c).csr.getLsbD bit = false) :
    ∃ n, (run n).seqFg = .idle ∧ ((run n).chan c).csr.getLsbD bit = false := by
  by_cases hclear : ∃ n r, PollsClear i c bit r (run n)
  · obtain ⟨n, r, hp⟩ := hclear
    exact hrun.clear_ends h hirq hcpu r n hp
  · have hset (n : Nat) : PollsSet i c bit (run n) := by
      induction n with
      | zero =>
        refine ⟨hstart, hpolls, ?_⟩
        by_contra hbit
        obtain ⟨k, tmp, hplace, hk⟩ := hpolls
        obtain ⟨r, hr⟩ := pollAt_of_polls hk
        exact hclear ⟨0, r, hstart, ⟨k, tmp, hplace, hr⟩, Bool.eq_false_iff.2 hbit⟩
      | succ n ih =>
        obtain hp | hp := hrun.set_step h hirq ih
        · exact hp
        · exact absurd ⟨n + 1, hp⟩ hclear
    obtain ⟨n, hn⟩ := hack hset
    rw [(hset n).set] at hn
    cases hn

end Run

/-! ### The acknowledgement comes -/

section Acknowledged

variable {turns : Nat → Turn} {run : Nat → State} {c : ChannelId} (hrun : IsRun turns run)
  (hfair : TimerFair turns run)
  (hdriven : ∃ n, ∀ m, n ≤ m → ((run m).chan c).en = true ∧ ((run m).chan c).SelfDriven)
include hrun hfair hdriven

theorem IsRun.retAck (hset : ∀ n, ((run n).chan c).phRet = true) : ∃ n, ((run n).chan c).phRet = false := by
  obtain ⟨-, -, hack⟩ := hfair c hdriven
  obtain ⟨n, hn⟩ := hdriven
  have henabled (m : Nat) (hm : n ≤ m) : ((run m).chan c).retAckEnabled = true :=
    (retAckEnabled_iff _).2 ⟨hset m, running_of_selfDriven (hn m hm).1 (hn m hm).2⟩
  obtain ⟨m, hm, hturn⟩ := hack ⟨n, henabled⟩ n
  refine ⟨m + 1, ?_⟩
  rw [hrun.event hturn, (writesChannel_event (.inr (.inr (.inl rfl))) _).own, Channel.phRet, chanAfter_csr,
    Event.prepare]
  exact (congrArg (fun ch : Channel => ch.csr.getLsbD 6) (if_pos (henabled m hm))).trans
    (clearRet_csr_getLsbD _ 6)

theorem IsRun.advAck (hdivider : ∃ n, ∀ m, n ≤ m → 16 < ((run m).chan c).dividerValue16)
    (hset : ∀ n, ((run n).chan c).phAdv = true) : ∃ n, ((run n).chan c).phAdv = false := by
  obtain ⟨-, hack, -⟩ := hfair c hdriven
  obtain ⟨n, hn⟩ := hdriven
  obtain ⟨n', hn'⟩ := hdivider
  have henabled (m : Nat) (hm : max n n' ≤ m) : ((run m).chan c).advAckEnabled = true := by
    obtain ⟨hen, hself⟩ := hn m ((Nat.le_max_left n n').trans hm)
    exact (advAckEnabled_iff _).2
      ⟨hset m, running_of_selfDriven hen hself, hn' m ((Nat.le_max_right n n').trans hm)⟩
  obtain ⟨m, hm, hturn⟩ := hack ⟨max n n', henabled⟩ (max n n')
  refine ⟨m + 1, ?_⟩
  rw [hrun.event hturn, (writesChannel_event (.inr (.inl rfl)) _).own, Channel.phAdv, chanAfter_csr,
    Event.prepare]
  exact (congrArg (fun ch : Channel => ch.csr.getLsbD 7) (if_pos (henabled m hm))).trans
    (clearAdv_csr_getLsbD _ 7)

end Acknowledged

/-- Settles O39. -/
theorem phaseOperationsEndInEveryFairRun : Obligations.PhaseOperationsEndInEveryFairRun := by
  intro turns run c hrun hfair hcpu hirq hstart hdriven
  refine ⟨fun hpolls => ?_, fun hpolls hdivider => ?_⟩
  · exact hrun.handshake_ends (.retard c) hirq hcpu hstart hpolls fun hset =>
      hrun.retAck hfair hdriven fun n => (hset n).set
  · exact hrun.handshake_ends (.advance c) hirq hcpu hstart hpolls fun hset =>
      hrun.advAck hfair hdriven hdivider fun n => (hset n).set

end Sys2Proof.Machine
end
